-- ==== Sys2Proof/Word.lean ====
section
/-! DEFINITION. The data types of the pulse-pair encoder: bytes, colours, levels, pulses, pairs, durations,
and the seven phases (00_scope.md R13, 10_state.md R26). -/

namespace Sys2Proof

/-- One channel intensity, 8 bits (R22). -/
abbrev Byte := BitVec 8

/-- A colour: the record (red, green, blue) of R13 and R22.  The order of the fields is not the order on the wire (R55). -/
structure Color where
  red   : Byte
  green : Byte
  blue  : Byte
  deriving DecidableEq, Repr, Inhabited

/-- A logic level (R13). -/
inductive Level where
  | low
  | high
  deriving DecidableEq, Repr, Inhabited

/-- A level held for a number of ticks (R13, R14). -/
structure Pulse where
  level : Level
  dur   : Nat
  deriving DecidableEq, Repr, Inhabited

/-- A high pulse and the low pulse after it (R13). -/
structure Pair where
  hi : Pulse
  lo : Pulse
  deriving DecidableEq, Repr, Inhabited

/-- The four canonical pulse durations in ticks (R33). -/
structure Durations where
  t0h : Nat
  t0l : Nat
  t1h : Nat
  t1l : Nat
  deriving DecidableEq, Repr, Inhabited

/-- The sequencer's phases (R26).  Code 7 is reserved and no rule writes it, so the type has no such value (93 U11). -/
inductive Phase where
  | idle
  | claim
  | qfreq
  | conv
  | fill
  | submit
  | emit
  deriving DecidableEq, Repr, Inhabited

end Sys2Proof
end

