-- ==== Sys2Proof/Config.lean ====
section
/-! DEFINITION. What an implementation fixes (00_scope.md R6, R7, R8), the values on the input ports
(30_encoding.md R70, R85), and the free values. -/

namespace Sys2Proof

/-- The fields PINF and CHF of the command word, where R71 puts them whatever PIN_W and CH_W are (log 2). -/
abbrev PinField := BitVec 6
abbrev ChField := BitVec 4

/-- A pin and a channel number, values of PIN_W and CH_W bits (R25): naturals below 2^PIN_W and 2^CH_W. -/
abbrev PinNo := Nat
abbrev ChNo := Nat

/-- The arguments of the model: N (R6), TICK_MAX, FREQ_W, PIN_W, CH_W, BASE_CLK_HZ and T_RESET_NS (R8).  DESIGN CHOICE (log 1):
they stand beside the registers in State, so that a statement about every state is a statement about every value of them.
The last two are OPEN and no rule of the block computes from them (R25, R111, R208; log 21). -/
structure Params where
  /-- N, the number of pixels (R6) -/
  nPixels   : Nat
  /-- TICK_MAX, the largest tick count (D10) -/
  tickMax   : Nat
  /-- FREQ_W, the width of a frequency (D12) -/
  freqW     : Nat
  /-- PIN_W, CH_W, the widths of a pin and a channel number (D4) -/
  pinW      : Nat
  chW       : Nat
  /-- BASE_CLK_HZ, the base clock that the divider divides (D12) -/
  baseClkHz : Nat
  /-- T_RESET_NS, the gap the host must leave between two frames, which the block does not provide (D21, R208) -/
  tResetNs  : Nat
  deriving DecidableEq, Repr

/-- The reference configuration (R6, R8; the last two values are the spec's from general knowledge, G1 and G3; log 21). -/
def Params.reference : Params :=
  { nPixels := 5, tickMax := 32767, freqW := 32, pinW := 6, chW := 4, baseClkHz := 80000000, tResetNs := 50000 }

/-- The four protocol constants in nanoseconds (R7; 90_conflicts.md C1). -/
def Config.t0hNs : Nat := 350
def Config.t0lNs : Nat := 800
def Config.t1hNs : Nat := 700
def Config.t1lNs : Nat := 600

/-- DIV_REF, the clock divider that INIT writes (R8, R25). -/
def Config.divRef : BitVec 8 := 2

/-- F_REF, the tick frequency of the reference configuration (R8): a premise of a claim, never assumed by a rule (R10). -/
def Config.fRef : Nat := 40000000

/-- IDLE_LEVEL, the pin's level after a frame (R8, R162). -/
def Config.idleLevel : Level := .low

/-- The peripheral's answer to a claim, a start or a completion wait (R10). -/
inductive Answer where
  | ok
  | err
  deriving DecidableEq, Repr, Inhabited

/-- The peripheral's answer to a frequency query (R10). -/
inductive FreqAnswer where
  | ok (hz : Nat)
  | err
  deriving DecidableEq, Repr, Inhabited

/-- The values on the block's input ports in one step (R70, R85).  `pixData`, `freqHz` and `txRdIdx` are ports of 24N, FREQ_W
and ceil(log2(24N)) bits: only those bits of the number are ever read (log 17). -/
structure Inputs where
  rst      : Bool
  cmdValid : Bool
  cmdWord  : BitVec 16
  pixData  : Nat
  claimAck : Bool
  claimErr : Bool
  freqAck  : Bool
  freqErr  : Bool
  freqHz   : Nat
  txAck    : Bool
  txNack   : Bool
  txRdIdx  : Nat
  txDone   : Bool
  txFault  : Bool
  deriving DecidableEq, Repr, Inhabited

/-- Nothing driven: no reset, no command, no answer. -/
def Inputs.silent : Inputs :=
  { rst := false, cmdValid := false, cmdWord := 0, pixData := 0, claimAck := false, claimErr := false,
    freqAck := false, freqErr := false, freqHz := 0, txAck := false, txNack := false, txRdIdx := 0,
    txDone := false, txFault := false }

/-- FREE VALUE (log 3): what the host and the peripheral drive in a step that no claim names (R10, U1 to U3, U5). -/
opaque Config.freeInputs : Nat → Inputs

/-- FREE VALUE (log 4): the answer to a start when tx_ack and tx_nack are both raised, which R85 leaves open. -/
opaque Config.startBoth : Nat → Answer

/-- FREE VALUE (log 23): tx_rd_data where tx_rd_idx carries 24N or more and names no slot, which the spec leaves open. -/
opaque Config.readNoSlot : Nat → BitVec 32

/-- FREE VALUE (log 16): how many pulses of a frame reached the pin when its emission faulted (R177, U4). -/
opaque Config.emittedPulses : Nat → Nat

/-- FREE VALUE (log 26): what the pin carried of a start that a reset abandoned: any pulses at all (R201, U13). -/
opaque Config.unknownPulses : Nat → List Pulse

end Sys2Proof
end

