-- ==== Sys2Proof/Syntax.lean ====
section
/-! DEFINITION. What the block decodes: one constructor of `Instr` per row of opcode_table.json (30_encoding.md R87). -/

namespace Sys2Proof

/-- The pixel operand of a block of `n` pixels: a vector of that length, never a list (R79, decision D5).  The length stands beside it
because `Instr` serves blocks of every N (log 13). -/
structure PixelOperand where
  n       : Nat
  colours : Vector Color n
  deriving DecidableEq, Repr

/-- The rows of opcode_table.json: four host commands (R76), two data-bit symbols (R78), seven phases (R26). -/
inductive Instr where
  /-- NOP (R93) -/
  | nop
  /-- INIT with the fields PINF and CHF (R71, R91) -/
  | init (pinf : PinField) (chf : ChField)
  /-- TRANSMIT pixels (R95): the operand is read from pix_data as part of decoding (R86). -/
  | transmit (pixels : PixelOperand)
  /-- RELEASE (R100) -/
  | release
  /-- SYM0: the data bit 0 of a FILL step (R78, R119) -/
  | sym0
  /-- SYM1: the data bit 1 of a FILL step (R78, R119) -/
  | sym1
  /-- IDLE (R90) -/
  | idle
  /-- CLAIM (R92) -/
  | claim
  /-- QFREQ (R110) -/
  | qfreq
  /-- CONV (R112) -/
  | conv
  /-- FILL (R148, R150) -/
  | fill
  /-- SUBMIT (R155) -/
  | submit
  /-- EMIT (R157) -/
  | emit
  deriving DecidableEq, Repr

/-- A host command of a block of `n` pixels (R76, R77): what every command word decodes to.  The pixel operand is a vector of
length `n` by its type (R79). -/
inductive Command (n : Nat) where
  | nop
  | init (pinf : PinField) (chf : ChField)
  | transmit (pixels : Vector Color n)
  | release
  deriving DecidableEq, Repr

def Command.toInstr {n : Nat} : Command n → Instr
  | .nop => .nop
  | .init pinf chf => .init pinf chf
  | .transmit px => .transmit ⟨n, px⟩
  | .release => .release

/-- The phase row of a phase (R87). -/
def Phase.toInstr : Phase → Instr
  | .idle => .idle
  | .claim => .claim
  | .qfreq => .qfreq
  | .conv => .conv
  | .fill => .fill
  | .submit => .submit
  | .emit => .emit

/-- The three formats of the opcode table with the bits they are matched on (R87).  A command comes with the pixel operand
port beside it (R70, R72). -/
inductive Code where
  | command (word : BitVec 16) (pixData : Nat)
  | symbol (bit : BitVec 1)
  | phase (code : BitVec 3)
  deriving DecidableEq, Repr

end Sys2Proof
end

