-- ==== Sys2Proof/WellFormed.lean ====
section
/-! DEFINITION. Which parameters and instructions are well formed. -/

namespace Sys2Proof

/-- A block has at least one pixel (00_scope.md R6, decision D25). -/
def Params.wellFormed (p : Params) : Bool := decide (1 ≤ p.nPixels)

/-- An instruction of a block of `n` pixels: TRANSMIT's operand is a vector of length `n` (30_encoding.md R79; S8).  Fields of
the command word, data bits and phases are in range by their types. -/
def Instr.wellFormed (n : Nat) : Instr → Bool
  | .transmit px => px.n == n
  | .nop | .init _ _ | .release | .sym0 | .sym1 | .idle | .claim | .qfreq | .conv | .fill | .submit | .emit => true

end Sys2Proof
end

