-- ==== Sys2Proof/Decode.lean ====
section
/-! DEFINITION. The decoder and the encoder of the three formats of 30_encoding.md (R71, R72, R76, R77, R78, R86, R87) and
10_state.md R26. -/

namespace Sys2Proof

/-- Why a code has no instruction. -/
inductive Reject where
  /-- PHASE code 7, reserved and never entered (R26, R80). -/
  | reservedPhase
  deriving DecidableEq, Repr

/-- A pixel word is 0xRRGGBB (R72). -/
def colorOfWord (w : BitVec 24) : Color :=
  { red := w.extractLsb' 16 8, green := w.extractLsb' 8 8, blue := w.extractLsb' 0 8 }

def wordOfColor (c : Color) : BitVec 24 := c.red ++ c.green ++ c.blue

/-- Pixel i is pix_data[24i+23 : 24i], for the N pixels of the port (R72, R77 (b)). -/
def unpackPixels (n data : Nat) : Vector Color n := Vector.ofFn fun i => colorOfWord (BitVec.ofNat 24 (data >>> (24 * i.val)))

/-- The port that carries a list of colours, the first in the low 24 bits (R72). -/
def packPixels (px : List Color) : Nat := px.foldr (fun c rest => (wordOfColor c).toNat + 2 ^ 24 * rest) 0

/-- The command a word stands for: OP alone selects it, every other bit is an operand or ignored (R71, R76, R86). -/
def decodeCommand (n : Nat) (word : BitVec 16) (pixData : Nat) : Command n :=
  match (word.extractLsb' 0 2).toNat with
  | 0 => .nop
  | 1 => .init (word.extractLsb' 2 6) (word.extractLsb' 8 4)
  | 2 => .transmit (unpackPixels n pixData)
  | _ => .release

/-- The row of the bit-to-pair table (R78). -/
def decodeSymbol (bit : BitVec 1) : Instr :=
  if bit = 1 then .sym1 else .sym0

def decodePhase (code : BitVec 3) : Except Reject Phase :=
  match code.toNat with
  | 0 => .ok .idle
  | 1 => .ok .claim
  | 2 => .ok .qfreq
  | 3 => .ok .conv
  | 4 => .ok .fill
  | 5 => .ok .submit
  | 6 => .ok .emit
  | _ => .error .reservedPhase

/-- The decoder of a block of `n` pixels, total on every code (R86, R87). -/
def decode (n : Nat) : Code → Except Reject Instr
  | .command word pixData => .ok (decodeCommand n word pixData).toInstr
  | .symbol bit => .ok (decodeSymbol bit)
  | .phase code =>
    match decodePhase code with
    | .ok p => .ok p.toInstr
    | .error e => .error e

/-- The phase codes (R26). -/
def Phase.code : Phase → BitVec 3
  | .idle => 0
  | .claim => 1
  | .qfreq => 2
  | .conv => 3
  | .fill => 4
  | .submit => 5
  | .emit => 6

/-- The words of an instruction, every ignored bit 0 ("a host should write 0", R71). -/
def encode : Instr → Code
  | .nop => .command 0x0000#16 0
  | .init pinf chf => .command (0#4 ++ chf ++ pinf ++ 1#2) 0
  | .transmit px => .command 0x0002#16 (packPixels px.colours.toList)
  | .release => .command 0x0003#16 0
  | .sym0 => .symbol 0
  | .sym1 => .symbol 1
  | .idle => .phase Phase.idle.code
  | .claim => .phase Phase.claim.code
  | .qfreq => .phase Phase.qfreq.code
  | .conv => .phase Phase.conv.code
  | .fill => .phase Phase.fill.code
  | .submit => .phase Phase.submit.code
  | .emit => .phase Phase.emit.code

/-- A row of opcode_table.json: its format's number (0 command, 1 symbol, 2 phase), mask and match. -/
structure TableRow where
  format : Nat
  mask   : Nat
  pat    : Nat
  deriving DecidableEq, Repr

/-- The table's row of each instruction. -/
def Instr.row : Instr → TableRow
  | .nop => ⟨0, 0x0003, 0x0000⟩
  | .init _ _ => ⟨0, 0x0003, 0x0001⟩
  | .transmit _ => ⟨0, 0x0003, 0x0002⟩
  | .release => ⟨0, 0x0003, 0x0003⟩
  | .sym0 => ⟨1, 0x1, 0x0⟩
  | .sym1 => ⟨1, 0x1, 0x1⟩
  | .idle => ⟨2, 0x7, 0x0⟩
  | .claim => ⟨2, 0x7, 0x1⟩
  | .qfreq => ⟨2, 0x7, 0x2⟩
  | .conv => ⟨2, 0x7, 0x3⟩
  | .fill => ⟨2, 0x7, 0x4⟩
  | .submit => ⟨2, 0x7, 0x5⟩
  | .emit => ⟨2, 0x7, 0x6⟩

def Code.format : Code → Nat
  | .command _ _ => 0
  | .symbol _ => 1
  | .phase _ => 2

/-- The bits the table matches on, as a number. -/
def Code.bits : Code → Nat
  | .command word _ => word.toNat
  | .symbol bit => bit.toNat
  | .phase code => code.toNat

/-- A code matches a row of the table (R87). -/
def TableRow.matches (r : TableRow) (c : Code) : Bool :=
  c.format == r.format && (c.bits &&& r.mask) == r.pat

/-- Which of the three formats a bare number of the opcode table stands for (log 11).  Nine bits or more: a command word, and
above its 16 bits pix_data.  One bit: a data bit.  Two to seven bits: a phase code.  One whole byte, where the table's
formats overlap: the low byte of a command word, but for the numbers 4, 5 and 6, which are the match values of phase
rows and of no command row. -/
def tableCode (nbits w : Nat) : Code :=
  if nbits = 1 then .symbol (BitVec.ofNat 1 w)
  else if nbits < 8 then .phase (BitVec.ofNat 3 w)
  else if nbits = 8 ∧ 4 ≤ w ∧ w ≤ 6 then .phase (BitVec.ofNat 3 w)
  else .command (BitVec.ofNat 16 w) (w >>> 16)

/-- The decoder on a number of the opcode table, for the reference configuration. -/
def decodeTableWord (nbits w : Nat) : Option Instr :=
  match decode Params.reference.nPixels (tableCode nbits w) with
  | .ok i => some i
  | .error _ => none

end Sys2Proof
end

