-- ==== Sys2Proof/Machine/State.lean ====
section
/-! DEFINITION. The state of the block (10_state.md R20), its reset (R40), the reasons a step stops, the events of the
trace (40_commands.md R108). -/

namespace Sys2Proof.Machine

/-- A space addressed by element (20_memory.md R50): (address, element) pairs, addresses strictly rising.  An address that is
not listed holds `none` (R20, R41; log 19). -/
abbrev Memory (α : Type) := List (Nat × α)

/-- The canonical form: strictly rising addresses. -/
def Memory.wf {α : Type} : Memory α → Bool
  | [] => true
  | [_] => true
  | (a, _) :: (b, v) :: m => decide (a < b) && Memory.wf ((b, v) :: m)

/-- Why ERR is 1 (60_exceptions.md R171). -/
inductive Cause where
  | none
  | claim
  | freq
  | conv
  | index
  | txStart
  | txFault
  | notBound
  deriving DecidableEq, Repr, Inhabited

/-- The duration file DUR (R33). -/
structure DurFile where
  t0h : Option Nat
  t0l : Option Nat
  t1h : Option Nat
  t1l : Option Nat
  deriving DecidableEq, Repr, Inhabited

/-- Every register of the file holds `none`. -/
def DurFile.empty : DurFile := ⟨none, none, none, none⟩

/-- The registers that may hold `none` (R20), for naming a fault. -/
inductive Reg where
  | pin
  | ch
  | div
  | idx
  | pixl
  | freq
  | t0h
  | t0l
  | t1h
  | t1l
  | sigbuf
  deriving DecidableEq, Repr

/-- Why the model stops.  None of these is a behaviour of the block: its errors are completions with a cause (R178, R179). -/
inductive Fault where
  /-- A rule read a register or slot that holds `none` (R41).  Raised by every read through `need`.  Safe: the model stops
  where the spec gives no value. -/
  | readNone (r : Reg)
  /-- A micro-operation of one phase, or a data-bit symbol, was executed in another phase, where R104 has no row for it (log 9).
  Raised by `inPhase`.  Safe: no step does it. -/
  | outOfPhase (p : Phase)
  /-- FILL with IDX above 24N, a value R27 says IDX never holds and R104 has no row for (log 10).  Raised by execFill.  Safe. -/
  | idxAbove24N
  deriving DecidableEq, Repr

/-- Why the model refuses. -/
inductive Refusal where
  /-- No meaning yet.  Safe. -/
  | notModelled (mnemonic : String)
  /-- TRANSMIT with the operand of a block of another N, which no port can carry and which must be rejected (R79; log 13).
  Raised by execTransmit.  Safe: no step decodes it. -/
  | wrongLength
  /-- PHASE code 7 (R26, U11).  Raised by step; no state has the code.  Safe. -/
  | reservedPhase
  deriving DecidableEq, Repr

/-- The events of the trace (R108). -/
inductive Event where
  | claim (pin : PinNo) (ch : ChNo) (div : BitVec 8)
  | claimAns (a : Answer)
  | release (pin : PinNo) (ch : ChNo)
  | freqQuery
  | freqAns (a : FreqAnswer)
  | start (buf : List Pair)
  | startAns (a : Answer)
  | doneAns (a : Answer)
  deriving DecidableEq, Repr

/-- rsp_err and rsp_cause in a step with rsp_valid = 1 (R70, R75). -/
structure Response where
  err   : Bool
  cause : Cause
  deriving DecidableEq, Repr

/-- The block's state: exactly the table of R20, one field per row, and no other. -/
structure Registers where
  /-- BOUND (R24) -/
  bound  : Bool
  /-- PIN, CH, DIV (R25) -/
  pin    : Option PinNo
  ch     : Option ChNo
  div    : Option (BitVec 8)
  /-- PHASE (R26) -/
  phase  : Phase
  /-- IDX (R27) -/
  idx    : Option Nat
  /-- DONE, ERR (R29) -/
  done   : Bool
  err    : Bool
  /-- CAUSE (R30) -/
  cause  : Cause
  /-- PIXL (R21) -/
  pixl   : Memory Color
  /-- FREQ (R32) -/
  freq   : Option Nat
  /-- DUR (R33) -/
  dur    : DurFile
  /-- SIGBUF (R35) -/
  sigbuf : Memory Pair
  deriving DecidableEq, Repr

/-- What R38 says is no state of the block, and the two outputs that last one step: what a step is given and what it shows.  A
model whose step has no other argument than its state and no other answer must hold them beside the registers (log 1, 3,
6, 7). -/
structure Surroundings where
  /-- N, TICK_MAX, FREQ_W, PIN_W, CH_W, BASE_CLK_HZ, T_RESET_NS: arguments of the model, written by no step (R8, R38; log 1). -/
  params : Params
  /-- the response port: some exactly after the step that completed a command (R70) -/
  rsp    : Option Response
  /-- rel_req: 1 exactly after the step that performed RELEASE (R85) -/
  relReq : Bool
  /-- the model's own: what the input ports carry in the coming step (log 3) -/
  ports  : Inputs
  /-- the model's own: what they carry in later steps, as far as a claim names it (log 3) -/
  script : List Inputs
  /-- the model's own: a counter of steps, for the free values (log 3) -/
  tick   : Nat
  /-- the model's own: the trace of R108, oldest event first (log 6) -/
  trace  : List Event
  deriving DecidableEq, Repr

/-- What a step of the model works on: the block's state (R20) and its surroundings. -/
structure State extends Registers, Surroundings
  deriving DecidableEq, Repr

/-- The state after reset of a block with the given parameters (R40, R200). -/
def State.resetWith (p : Params) : State :=
  { params := p, bound := false, pin := none, ch := none, div := none, phase := .idle, idx := none,
    done := false, err := false, cause := .none, pixl := [], freq := none, dur := DurFile.empty, sigbuf := [],
    rsp := none, relReq := false, ports := Inputs.silent, script := [], tick := 0, trace := [] }

/-- The reference block right after reset. -/
def State.reset : State := State.resetWith Params.reference

end Sys2Proof.Machine
end

