-- ==== Sys2Proof/Machine/Flags.lean ====
section
/-! DEFINITION. The flags and the STATUS view (10_state.md R29, R30, R31). -/

namespace Sys2Proof.Machine

/-- The cause codes (60_exceptions.md R171). -/
def Cause.code : Cause → BitVec 3
  | .none => 0
  | .claim => 1
  | .freq => 2
  | .conv => 3
  | .index => 4
  | .txStart => 5
  | .txFault => 6
  | .notBound => 7

/-- BUSY is the view PHASE != IDLE (R29). -/
def State.busy (s : State) : Bool := decide (s.phase ≠ .idle)

/-- STATUS = 0, CAUSE[2:0], ERR, DONE, BUSY, BOUND, bit 7 first (R31). -/
def State.status (s : State) : BitVec 8 :=
  0#1 ++ s.cause.code ++ BitVec.ofBool s.err ++ BitVec.ofBool s.done ++ BitVec.ofBool s.busy ++ BitVec.ofBool s.bound

/-- What the accepting step does to the flags (R90). -/
def State.clearFlags (s : State) : State := { s with done := false, err := false, cause := .none }

/-- What the completing step does to the flags and the response port (R179, R180). -/
def State.setResult (err : Bool) (cause : Cause) (s : State) : State :=
  { s with done := true, err := err, cause := cause, rsp := some ⟨err, cause⟩ }

end Sys2Proof.Machine
end

