-- ==== Sys2Proof/Machine/Ops.lean ====
section
/-! DEFINITION. The shared operations: the element-addressed spaces (20_memory.md R50), register reads (10_state.md R41),
completion Ok and with error (60_exceptions.md R178, R179, R180), acceptance (40_commands.md R90, R102), the trace (R108),
reset (70_reset_and_hazards.md R200). -/

namespace Sys2Proof.Machine

/-- What a meaning answers. -/
abbrev Result := Host.Outcome State Fault Refusal

/-- MemRead: the element at an address, `none` where none is held (R12, R50). -/
def Memory.read {α : Type} : Memory α → Nat → Option α
  | [], _ => none
  | (b, v) :: m, a => if a = b then some v else Memory.read m a

/-- MemWrite of one element (R12, R50). -/
def Memory.write {α : Type} : Memory α → Nat → α → Memory α
  | [], a, v => [(a, v)]
  | (b, u) :: m, a, v =>
    if a < b then (a, v) :: (b, u) :: m
    else if a = b then (a, v) :: m
    else (b, u) :: Memory.write m a v

/-- A space that holds a list's elements from address `k` on, and nothing else. -/
def Memory.ofList {α : Type} : Nat → List α → Memory α
  | _, [] => []
  | k, x :: xs => (k, x) :: Memory.ofList (k + 1) xs

/-- The `n` elements from address `k` on, if every one of them is held. -/
def Memory.readRange {α : Type} (m : Memory α) : Nat → Nat → Option (List α)
  | _, 0 => some []
  | k, n + 1 =>
    match Memory.read m k, Memory.readRange m (k + 1) n with
    | some x, some xs => some (x :: xs)
    | _, _ => none

/-- 24N, the number of slots of the signal buffer (R53). -/
def State.slots (s : State) : Nat := 24 * s.params.nPixels

/-- Reading a register or slot; `none` is a model fault (R41). -/
def need {α : Type} (r : Reg) (v : Option α) (k : α → Result) : Result :=
  match v with
  | some x => k x
  | none => .fault (.readNone r)

/-- rsp_valid and rel_req are 1 for one step only (R70, R85). -/
def State.quiet (s : State) : State := { s with rsp := none, relReq := false }

/-- Appending to the trace (R108). -/
def State.log (es : List Event) (s : State) : State := { s with trace := s.trace ++ es }

/-- PHASE <- p, the transfer of control of this block (R12). -/
def State.goto (p : Phase) (s : State) : State := { s with phase := p }

/-- The registers of a command emptied, and PHASE <- IDLE (R39, R179, R180). -/
def State.discard (s : State) : State :=
  { s with phase := .idle, pixl := [], freq := none, dur := DurFile.empty, idx := none, sigbuf := [] }

/-- `complete Ok` (R180). -/
def complete (s : State) : Result := .next (s.discard.setResult false .none)

/-- `raise HardwareError(cause)`: completion with error, the rest of the step's pseudocode abandoned (R178, R179). -/
def raise (c : Cause) (s : State) : Result := .next (s.discard.setResult true c)

/-- The three binding registers written together (R91, R92, R100). -/
def State.setBinding (pin : Option PinNo) (ch : Option ChNo) (div : Option (BitVec 8)) (s : State) : State :=
  { s with pin := pin, ch := ch, div := div }

/-- A command presented: accepted iff PHASE = IDLE, DONE, ERR and CAUSE cleared first (R90); not accepted while busy, and
then nothing changes (R102; log 9). -/
def accept (s : State) (k : State → Result) : Result :=
  if s.phase = .idle then k s.quiet.clearFlags else .next s

/-- A micro-operation runs in its own phase only (R28, R104; log 9). -/
def inPhase (p : Phase) (s : State) (k : State → Result) : Result :=
  if s.phase = p then k s.quiet else .fault (.outOfPhase p)

/-- The request that is with the peripheral and not yet answered, carried by PHASE (R37; log 5). -/
def State.inFlight (s : State) : List Event :=
  match s.phase with
  | .claim =>
    match s.pin, s.ch, s.div with
    | some pin, some ch, some div => [.claim pin ch div]
    | _, _, _ => []
  | .qfreq => [.freqQuery]
  | .submit =>
    match Memory.readRange s.sigbuf 0 s.slots with
    | some buf => [.start buf]
    | none => []
  | .idle | .conv | .fill | .emit => []

/-- rst = 1: every register at its reset value, whatever the phase (R200, R40).  The trace is no register: it stays, and a
request that was with the peripheral stands in it without an answer (R201; log 5, 6). -/
def State.applyReset (s : State) : State :=
  { State.resetWith s.params with
    ports := s.ports, script := s.script, tick := s.tick, trace := s.trace ++ s.inFlight }

/-- The input ports after a step: the values a claim names, else free values (R10; log 3). -/
def State.nextInputs (s : State) : State :=
  match s.script with
  | [] => { s with ports := Config.freeInputs s.tick, tick := s.tick + 1 }
  | i :: is => { s with ports := i, script := is, tick := s.tick + 1 }

end Sys2Proof.Machine
end

