-- ==== Sys2Proof/Machine/Pulse.lean ====
section
/-! DEFINITION. Pulse-duration lookup and assembly: 41_pulse_duration.md R113, R114, R118, R119, R120 and the pulse and pair
words of 30_encoding.md R73, R74. -/

namespace Sys2Proof.Machine

/-- Nanoseconds to ticks at `f` hertz: the exact product, divided once, rounding down (R113; log 15). -/
def ticks (ns f : Nat) : Nat := ns * f / 1000000000

/-- The four tick counts before the check (R114). -/
def rawDurations (f : Nat) : Durations :=
  { t0h := ticks Config.t0hNs f, t0l := ticks Config.t0lNs f, t1h := ticks Config.t1hNs f, t1l := ticks Config.t1lNs f }

/-- A test of all four counts. -/
def everyDuration (d : Durations) (q : Nat → Bool) : Bool := q d.t0h && q d.t0l && q d.t1h && q d.t1l

/-- The check: a zero is an invalid conversion, a count above TICK_MAX an overflow; `none` is Err (R114). -/
def checkDurations (tickMax : Nat) (d : Durations) : Option Durations :=
  if everyDuration d (fun t => decide (0 < t ∧ t ≤ tickMax)) then some d else none

/-- The four durations and their check (R114). -/
def durations (tickMax f : Nat) : Option Durations := checkDurations tickMax (rawDurations f)

/-- A high pulse first, the low pulse second (R118). -/
def mkPair (hi lo : Nat) : Pair := { hi := ⟨.high, hi⟩, lo := ⟨.low, lo⟩ }

/-- PAIR0 and PAIR1 over a duration record (R118). -/
def pair0 (d : Durations) : Pair := mkPair d.t0h d.t0l
def pair1 (d : Durations) : Pair := mkPair d.t1h d.t1l

/-- SELP over a duration record (R119). -/
def selp (d : Durations) (b : Bool) : Pair := if b then pair1 d else pair0 d

/-- PAIR0 and PAIR1 as views of DUR: they exist when DUR holds values (R34, R118). -/
def State.pair0? (s : State) : Option Pair :=
  match s.dur.t0h, s.dur.t0l with
  | some h, some l => some (mkPair h l)
  | _, _ => none

def State.pair1? (s : State) : Option Pair :=
  match s.dur.t1h, s.dur.t1l with
  | some h, some l => some (mkPair h l)
  | _, _ => none

/-- SELP on the registers of DUR (R119): bit 1 reads T1H and T1L, bit 0 reads T0H and T0L. -/
def selectPair (b : Bool) (s : State) (k : Pair → Result) : Result :=
  if b then need .t1h s.dur.t1h fun h => need .t1l s.dur.t1l fun l => k (mkPair h l)
  else need .t0h s.dur.t0h fun h => need .t0l s.dur.t0l fun l => k (mkPair h l)

/-- |a - b| on naturals. -/
def distance (a b : Nat) : Nat := (a - b) + (b - a)

/-- Reading a pair back by its high pulse; a tie reads 0 (R120). -/
def classify (d : Durations) (p : Pair) : Bool := decide (distance p.hi.dur d.t1h < distance p.hi.dur d.t0h)

def levelBit : Level → Nat
  | .low => 0
  | .high => 1

/-- ceil(log2(k)), the number of bits that tell k things apart (R73, R85). -/
def ceilLog2 (k : Nat) : Nat := if k ≤ 1 then 0 else (k - 1).log2 + 1

/-- The width of a duration field: ceil(log2(TICK_MAX + 1)) bits (R73). -/
def durWidth (tickMax : Nat) : Nat := ceilLog2 (tickMax + 1)

/-- A pulse's word: the level above a duration of `w` bits (R73). -/
def pulseWord (w : Nat) (p : Pulse) : Nat := levelBit p.level <<< w ||| p.dur

/-- The width of a pulse in a pair's word: the 16 bits of R74.  DESIGN CHOICE (log 24) for a TICK_MAX other than 32767, where R73
changes the duration field and R74 still says 32 bits: a shorter pulse stands in the low bits of its 16, and only a
pulse that does not fit 16 bits widens them. -/
def halfWidth (w : Nat) : Nat := max 16 (w + 1)

/-- A pair's word: the high pulse in the low half, the low pulse in the high half (R74; log 24). -/
def pairWord (w : Nat) (p : Pair) : Nat := pulseWord w p.lo <<< halfWidth w ||| pulseWord w p.hi

end Sys2Proof.Machine
end

