-- ==== Sys2Proof/Machine/Operands.lean ====
section
/-! DEFINITION. Operands: the answers read off the input ports (30_encoding.md R85), the walk counter's decoding
(43_buffer_builder.md R147), BYTESEL and XBIT (42_bit_extractor.md R131, R133), the slot write WSLOT (R146), the frame (R57). -/

namespace Sys2Proof.Machine

/-- The answer `Env.claim`: ack with err = 0 is Ok, ack with err = 1 is Err (R85). -/
def claimAnswer (p : Inputs) : Option Answer :=
  if p.claimAck then some (if p.claimErr then .err else .ok) else none

/-- The answer `Env.freq`, its value on a port of FREQ_W bits (R85, R111; log 17).  DEDUCED (log 25): ack with err = 1 is Err and
err without ack is no answer, as R85 says of the claim; of freq_ack and freq_err it names no combination but ack with err = 0. -/
def freqAnswer (freqW : Nat) (p : Inputs) : Option FreqAnswer :=
  if p.freqAck then some (if p.freqErr then .err else .ok (p.freqHz % 2 ^ freqW)) else none

/-- The answer `Env.tx_start`: ack is Ok, nack is Err (R85).  Both raised: an answer, which one is free (log 4). -/
def startAnswer (tick : Nat) (p : Inputs) : Option Answer :=
  match p.txAck, p.txNack with
  | false, false => none
  | true, false => some .ok
  | false, true => some .err
  | true, true => some (Config.startBoth tick)

/-- The answer `Env.tx_done`: done with fault = 0 is Ok, done with fault = 1 is Err (R85). -/
def doneAnswer (p : Inputs) : Option Answer :=
  if p.txDone then some (if p.txFault then .err else .ok) else none

/-- A colour's byte by channel index: 0 green, 1 red, 2 blue, the order on the wire (R57, R131). -/
def chan (c : Color) (i : Nat) : Byte :=
  match i with
  | 0 => c.green
  | 1 => c.red
  | _ => c.blue

/-- The walk counter decoded (R147): byte number in the byte stream, bit number extracted, slot written. -/
def walkByte (s : Nat) : Nat := s / 8
def walkBit (s : Nat) : Nat := s % 8
def wpos (s : Nat) : Nat := 8 * (s / 8) + 7 - s % 8

/-- BYTESEL: byte `m` of the byte stream (R131). -/
def byteSel (px : Memory Color) (m : Nat) : Option Byte := (Memory.read px (m / 3)).map fun c => chan c (m % 3)

/-- XBIT (R133). -/
def xbit (b : Byte) (k : Nat) : Bool := b.getLsbD k

/-- WSLOT: a slot number out of range raises INDEX, and nothing after it happens (R146, R178). -/
def wslot (p : Nat) (pair : Pair) (s : State) (k : State → Result) : Result :=
  if s.slots ≤ p then raise .index s else k { s with sigbuf := Memory.write s.sigbuf p pair }

/-- The data bit at stream position `p` of a pixel sequence, for p < 24 * px.length (R57, R135). -/
def streamBit (px : List Color) (p : Nat) : Bool :=
  xbit (chan (px.getD (p / 24) default) (p % 24 / 8)) (7 - p % 8)

/-- The bit stream of a pixel sequence (R135). -/
def streamBits (px : List Color) : List Bool := (List.range (24 * px.length)).map (streamBit px)

/-- The byte stream of a pixel sequence: green, red, blue of each pixel in order (R130, R131). -/
def byteStream (px : List Color) : List Byte := px.flatMap fun c => [c.green, c.red, c.blue]

/-- The frame: the whole content of the signal buffer at the hand-over (R57). -/
def frame (px : List Color) (d : Durations) : List Pair := (streamBits px).map (selp d)

end Sys2Proof.Machine
end

