-- ==== Sys2Proof/Machine/Commands.lean ====
section
/-! DEFINITION. The host commands NOP, INIT, TRANSMIT, RELEASE (40_commands.md R91, R93, R95, R100). -/

namespace Sys2Proof.Machine

/-- NOP (R93). -/
def execNop (s : State) : Result := accept s complete

/-- PINF and CHF seen at the widths of PIN and CH (R77 (a), R11; log 2). -/
def State.pinOf (s : State) (pinf : PinField) : PinNo := pinf.toNat % 2 ^ s.params.pinW
def State.chOf (s : State) (chf : ChField) : ChNo := chf.toNat % 2 ^ s.params.chW

/-- INIT, accept (R91). -/
def execInit (pinf : PinField) (chf : ChField) (s : State) : Result :=
  accept s fun s =>
    if s.bound then raise .claim s
    else .next ((s.setBinding (some (s.pinOf pinf)) (some (s.chOf chf)) (some Config.divRef)).goto .claim)

/-- TRANSMIT, accept (R95), of a vector of N colours (R79).  The operand of a block of another N is refused (log 13). -/
def execTransmit (pixels : PixelOperand) (s : State) : Result :=
  accept s fun s =>
    if pixels.n ≠ s.params.nPixels then .refused .wrongLength
    else if s.bound then .next { s with pixl := Memory.ofList 0 pixels.colours.toList, phase := .qfreq }
    else raise .notBound s

/-- RELEASE (R100): the notice to the peripheral, then the binding cleared. -/
def execRelease (s : State) : Result :=
  accept s fun s =>
    if s.bound then
      need .pin s.pin fun pin => need .ch s.ch fun ch =>
        complete { (s.log [.release pin ch]).setBinding none none none with bound := false, relReq := true }
    else raise .notBound s

end Sys2Proof.Machine
end

