-- ==== Sys2Proof/Machine/Symbols.lean ====
section
/-! DEFINITION. The rows SYM0 and SYM1 of the bit-to-pair table, as the FILL step that meets that data bit runs them
(41_pulse_duration.md R119; 30_encoding.md R78; log 8). -/

namespace Sys2Proof.Machine

/-- The rest of a FILL step once its data bit is known: SELP, WSLOT, IDX <- IDX + 1 (R148). -/
def fillSymbol (b : Bool) (s : State) : Result :=
  inPhase .fill s fun s => need .idx s.idx fun i => selectPair b s fun pair =>
    wslot (wpos i) pair s fun s => .next { s with idx := some (i + 1) }

/-- SYM0: the data bit 0 selects PAIR0 (R78, R119). -/
def execSym0 (s : State) : Result := fillSymbol false s

/-- SYM1: the data bit 1 selects PAIR1 (R78, R119). -/
def execSym1 (s : State) : Result := fillSymbol true s

end Sys2Proof.Machine
end

