-- ==== Sys2Proof/Machine/Phases.lean ====
section
/-! DEFINITION. The step performed in each phase (40_commands.md R104): IDLE (R90), CLAIM (R92), QFREQ
(41_pulse_duration.md R110), CONV (R112), FILL (43_buffer_builder.md R148, R150), SUBMIT (R155), EMIT (R157). -/

namespace Sys2Proof.Machine

/-- The accept rule of the command on the port (R90). -/
def runCommand {n : Nat} : Command n → State → Result
  | .nop, s => execNop s
  | .init pinf chf, s => execInit pinf chf s
  | .transmit px, s => execTransmit ⟨n, px⟩ s
  | .release, s => execRelease s

/-- IDLE (R90): nothing without a command; else the command on cmd_word, with pix_data beside it (R86). -/
def execIdle (s : State) : Result :=
  inPhase .idle s fun s =>
    if s.ports.cmdValid then runCommand (decodeCommand s.params.nPixels s.ports.cmdWord s.ports.pixData) s else .next s

/-- CLAIM (R92). -/
def execClaim (s : State) : Result :=
  inPhase .claim s fun s =>
    match claimAnswer s.ports with
    | none => .next s
    | some a =>
      need .pin s.pin fun pin => need .ch s.ch fun ch => need .div s.div fun div =>
        let s := s.log [.claim pin ch div, .claimAns a]
        match a with
        | .ok => complete { s with bound := true }
        | .err => raise .claim (s.setBinding none none none)

/-- QFREQ (R110). -/
def execQfreq (s : State) : Result :=
  inPhase .qfreq s fun s =>
    match freqAnswer s.params.freqW s.ports with
    | none => .next s
    | some a =>
      let s := s.log [.freqQuery, .freqAns a]
      match a with
      | .ok f => .next { s with freq := some f, phase := .conv }
      | .err => raise .freq s

/-- DUR <- d (R112). -/
def DurFile.ofDurations (d : Durations) : DurFile := ⟨some d.t0h, some d.t0l, some d.t1h, some d.t1l⟩

/-- CONV (R112). -/
def execConv (s : State) : Result :=
  inPhase .conv s fun s => need .freq s.freq fun f =>
    match durations s.params.tickMax f with
    | some d => .next { s with dur := DurFile.ofDurations d, idx := some 0, phase := .fill }
    | none => raise .conv s

/-- FILL: the step for one data bit (R148) while IDX < 24N, the exit at IDX = 24N (R150).  IDX is never above 24N (R27;
log 10). -/
def execFill (s : State) : Result :=
  inPhase .fill s fun s => need .idx s.idx fun i =>
    if i < s.slots then
      need .pixl (byteSel s.pixl (walkByte i)) fun byte =>
        if xbit byte (walkBit i) then execSym1 s else execSym0 s
    else if i = s.slots then .next { s with idx := none, phase := .submit }
    else .fault .idxAbove24N

/-- SUBMIT (R155): the whole buffer handed over as one object. -/
def execSubmit (s : State) : Result :=
  inPhase .submit s fun s =>
    match startAnswer s.tick s.ports with
    | none => .next s
    | some a =>
      need .sigbuf (Memory.readRange s.sigbuf 0 s.slots) fun buf =>
        let s := s.log [.start buf, .startAns a]
        match a with
        | .ok => .next (s.goto .emit)
        | .err => raise .txStart s

/-- EMIT (R157). -/
def execEmit (s : State) : Result :=
  inPhase .emit s fun s =>
    match doneAnswer s.ports with
    | none => .next s
    | some a =>
      let s := s.log [.doneAns a]
      match a with
      | .ok => complete s
      | .err => raise .txFault s

end Sys2Proof.Machine
end

