-- ==== Sys2Proof/Machine/Dispatch.lean ====
section
/-! DEFINITION. exec: one arm per row of opcode_table.json. -/

namespace Sys2Proof.Machine

def exec (i : Instr) (s : State) : Host.Outcome State Fault Refusal :=
  match i with
  | .nop => Sys2Proof.Machine.execNop s
  | .init pin ch => Sys2Proof.Machine.execInit pin ch s
  | .transmit pixels => Sys2Proof.Machine.execTransmit pixels s
  | .release => Sys2Proof.Machine.execRelease s
  | .sym0 => Sys2Proof.Machine.execSym0 s
  | .sym1 => Sys2Proof.Machine.execSym1 s
  | .idle => Sys2Proof.Machine.execIdle s
  | .claim => Sys2Proof.Machine.execClaim s
  | .qfreq => Sys2Proof.Machine.execQfreq s
  | .conv => Sys2Proof.Machine.execConv s
  | .fill => Sys2Proof.Machine.execFill s
  | .submit => Sys2Proof.Machine.execSubmit s
  | .emit => Sys2Proof.Machine.execEmit s

end Sys2Proof.Machine
end

