-- ==== Sys2Proof/Machine/Fetch.lean ====
section
/-! DEFINITION. What the next step decodes (30_encoding.md R86; 10_state.md R28), and how a table row is put there. -/

namespace Sys2Proof.Machine

/-- In phase IDLE with cmd_valid = 1 the command word, else the PHASE code (R86, R28, R87). -/
def fetch (s : State) : Code :=
  if s.phase = .idle ∧ s.ports.cmdValid = true then .command s.ports.cmdWord s.ports.pixData else .phase s.phase.code

/-- The registers a phase's step reads, filled where they hold `none` (10_state.md R42 (c) to (h); log 12).  For FILL the
pixels are all of one colour, so that the data bit at IDX = 0 is a bit of that colour's green byte. -/
def State.enterPhase (p : Phase) (c : Color) (s : State) : State :=
  let f := s.freq.getD Config.fRef
  match p with
  | .idle => { s with phase := .idle }
  | .claim => { s with phase := .claim, pin := some (s.pin.getD 0), ch := some (s.ch.getD 0), div := some Config.divRef }
  | .qfreq => { s with phase := .qfreq }
  | .conv => { s with phase := .conv, freq := some f }
  | .fill =>
    let d := rawDurations f
    { s with
      phase := .fill, idx := some (s.idx.getD 0), freq := some f
      dur := ⟨some d.t0h, some d.t0l, some d.t1h, some d.t1l⟩
      pixl := Memory.ofList 0 (List.replicate s.params.nPixels c) }
  | .submit => { s with phase := .submit }
  | .emit => { s with phase := .emit }

/-- A state whose next step decodes the given code (log 12): a command on the command port of an idle block, a phase in PHASE,
a data bit as the bit the FILL step at IDX = 0 meets.  Nothing else is driven. -/
def placeCode (c : Code) (s : State) : State :=
  match c with
  | .command word pixData =>
    { s with phase := .idle, ports := { Inputs.silent with cmdValid := true, cmdWord := word, pixData := pixData } }
  | .symbol bit =>
    let b : Byte := if bit = 1 then 255 else 0
    { s.enterPhase .fill ⟨b, b, b⟩ with idx := some 0, ports := Inputs.silent }
  | .phase code =>
    match decodePhase code with
    | .ok p => { s.enterPhase p default with ports := Inputs.silent }
    | .error _ => s

end Sys2Proof.Machine
end

