-- ==== Sys2Proof/Machine/Step.lean ====
section
/-! DEFINITION. One step of the block: the complete step relation of 40_commands.md R104, the row for rst first (row 26). -/

namespace Sys2Proof.Machine

/-- After an instruction: the input ports of the next step. -/
def afterExec (r : Host.Outcome State Fault Refusal) : Host.Outcome State Fault Refusal :=
  match r with
  | .next t => .next t.nextInputs
  | .fault f => .fault f
  | .refused r => .refused r

/-- rst = 1 overrides every other row (R104 row 26, R200); else what the step fetches is decoded and executed. -/
def step (s : State) : Host.Outcome State Fault Refusal :=
  if s.ports.rst then .next s.applyReset.nextInputs
  else
    match decode s.params.nPixels (fetch s) with
    | .ok i => afterExec (exec i s)
    | .error _ => .refused .reservedPhase

/-- `s` with the table row's number placed where the next step decodes it (log 11, 12). -/
def State.withFetchWord (s : State) (nbits w : Nat) : State := placeCode (tableCode nbits w) s

end Sys2Proof.Machine
end

