-- ==== Sys2Proof/Machine/Outputs.lean ====
section
/-! DEFINITION. The output ports as views of the state (30_encoding.md R70, R85; 10_state.md R36). -/

namespace Sys2Proof.Machine

/-- cmd_ready (R70). -/
def State.cmdReady (s : State) : Bool := decide (s.phase = .idle)

/-- rsp_valid, rsp_err, rsp_cause (R70, R75). -/
def State.rspValid (s : State) : Bool := s.rsp.isSome
def State.rspErr (s : State) : Option Bool := s.rsp.map Response.err
def State.rspCause (s : State) : Option (BitVec 3) := s.rsp.map fun r => r.cause.code

/-- claim_req, claim_pin, claim_ch, claim_div (R85). -/
def State.claimReq (s : State) : Bool := decide (s.phase = .claim)
def State.claimPin (s : State) : Option PinNo := s.pin
def State.claimCh (s : State) : Option ChNo := s.ch
def State.claimDiv (s : State) : Option (BitVec 8) := s.div

/-- freq_req, tx_start, tx_len (R85). -/
def State.freqReq (s : State) : Bool := decide (s.phase = .qfreq)
def State.txStart (s : State) : Bool := decide (s.phase = .submit)
def State.txLen (s : State) : Nat := s.slots

/-- SIGBUF belongs to the peripheral in phase EMIT (R36). -/
def State.bufferOwnedByPeripheral (s : State) : Bool := decide (s.phase = .emit)

/-- tx_rd_idx, a port of ceil(log2(24N)) bits (R85; log 17). -/
def State.rdIdx (s : State) : Nat := s.ports.txRdIdx % 2 ^ ceilLog2 s.slots

/-- tx_rd_data: the pair word of the slot that tx_rd_idx names, valid while PHASE = EMIT (R85, R74).  DESIGN CHOICE (log 23): where
the port carries 24N or more it names no slot, the spec is silent, and the word is a free value. -/
def State.txRdData (s : State) : Option Nat :=
  if s.phase = .emit then
    if s.rdIdx < s.slots then (Memory.read s.sigbuf s.rdIdx).map (pairWord (durWidth s.params.tickMax))
    else some (Config.readNoSlot s.tick).toNat
  else none

end Sys2Proof.Machine
end

