-- ==== Sys2Proof/Machine/Waveform.lean ====
section
/-! DEFINITION. What a buffer means on the pin (43_buffer_builder.md R160, R161, R162) and what the pin carried in a run, read
off the trace (40_commands.md R108; 60_exceptions.md R177). -/

namespace Sys2Proof.Machine

/-- The waveform of a buffer (R160). -/
def wave (buf : List Pair) : List Pulse := buf.flatMap fun p => [p.hi, p.lo]

/-- The length of a sequence of pulses in ticks (R161). -/
def waveTicks (w : List Pulse) : Nat := (w.map Pulse.dur).sum

/-- A well-formed pair: a high pulse and then a low one, both of 1 to TICK_MAX ticks (R156). -/
def pairWellFormed (tickMax : Nat) (p : Pair) : Bool :=
  p.hi.level == .high && p.lo.level == .low && decide (1 ≤ p.hi.dur ∧ p.hi.dur ≤ tickMax ∧ 1 ≤ p.lo.dur ∧ p.lo.dur ≤ tickMax)

/-- A well-formed buffer of `n` pixels: exactly 24n pairs, each well formed (R53, R156). -/
def bufferWellFormed (n tickMax : Nat) (buf : List Pair) : Bool :=
  buf.length == 24 * n && buf.all (pairWellFormed tickMax)

/-- What the pin carried of each buffer that was offered, in order, from event number `k` of the trace on.  A start answered Ok
whose completion was Ok carried the whole waveform, one that faulted a prefix of unknown length (R177, U4; log 16); a refused
start carried nothing (R65).  Of a start that a reset left without its answer or its completion what is on the pin is unknown:
any value (R201, U13); a frame whose completion is still to come is read the same way (log 26). -/
def carriedFrom : Nat → List Event → List (List Pulse)
  | _, [] => []
  | k, .start buf :: es =>
    match es with
    | .startAns .ok :: .doneAns .ok :: _ => wave buf :: carriedFrom (k + 1) es
    | .startAns .ok :: .doneAns .err :: _ => (wave buf).take (Config.emittedPulses k) :: carriedFrom (k + 1) es
    | .startAns .err :: _ => [] :: carriedFrom (k + 1) es
    | _ => Config.unknownPulses k :: carriedFrom (k + 1) es
  | k, .claim _ _ _ :: es => carriedFrom (k + 1) es
  | k, .claimAns _ :: es => carriedFrom (k + 1) es
  | k, .release _ _ :: es => carriedFrom (k + 1) es
  | k, .freqQuery :: es => carriedFrom (k + 1) es
  | k, .freqAns _ :: es => carriedFrom (k + 1) es
  | k, .startAns _ :: es => carriedFrom (k + 1) es
  | k, .doneAns _ :: es => carriedFrom (k + 1) es

/-- What the pin carried in the run that led to a state. -/
def State.pinCarried (s : State) : List (List Pulse) := carriedFrom 0 s.trace

/-- The pin's level after a frame (R162). -/
def levelAfterFrame : Level := Config.idleLevel

end Sys2Proof.Machine
end

