-- ==== Sys2Proof/Safety.lean ====
section
/-! DEFINITION. What a safe run of the block is: the invariants of every reachable state (10_state.md R42, with what it
implies, and R151), the buffers that reach the peripheral (R156), and runs of many steps. -/

namespace Sys2Proof.Machine

/-- The phases of a TRANSMIT in progress (R42 (b), (d)). -/
def transmittingPhase : Phase → Bool
  | .qfreq | .conv | .fill | .submit | .emit => true
  | .idle | .claim => false

/-- The phases in which FREQ holds a value (R42 (e)). -/
def freqPhase : Phase → Bool
  | .conv | .fill | .submit | .emit => true
  | .idle | .claim | .qfreq => false

/-- The phases in which DUR holds values (R42 (f)). -/
def durPhase : Phase → Bool
  | .fill | .submit | .emit => true
  | .idle | .claim | .qfreq | .conv => false

/-- The pixel sequence the latch holds (R21). -/
def State.pixels (s : State) : List Color := s.pixl.map Prod.snd

/-- The duration record that DUR holds, where it holds values. -/
def DurFile.values (d : DurFile) : Durations :=
  { t0h := d.t0h.getD 0, t0l := d.t0l.getD 0, t1h := d.t1h.getD 0, t1l := d.t1l.getD 0 }

/-- The number of walk steps done so far: how much of SIGBUF is filled in each phase (R42 (g), (h)). -/
def State.walked (s : State) : Nat :=
  match s.phase with
  | .fill => s.idx.getD 0
  | .submit | .emit => s.slots
  | .idle | .claim | .qfreq | .conv => 0

/-- The invariants of R42.  The clauses after (k) are what the same rules imply and (a) to (k) need in order to be kept by a step;
each names where the spec says it. -/
structure Inv (s : State) : Prop where
  /-- R6: N >= 1. -/
  params_wf : s.params.wellFormed = true
  /-- (b) -/
  transmitting_bound : transmittingPhase s.phase = true → s.bound = true
  /-- (c), one clause per register -/
  pin_held : s.pin.isSome = (s.bound || decide (s.phase = .claim))
  ch_held : s.ch.isSome = (s.bound || decide (s.phase = .claim))
  div_held : s.div.isSome = (s.bound || decide (s.phase = .claim))
  /-- (d): exactly the addresses 0 to N-1 hold a colour, or none does -/
  pixl_held : s.pixl.map Prod.fst = if transmittingPhase s.phase then List.range s.params.nPixels else []
  /-- (e) -/
  freq_held : s.freq.isSome = freqPhase s.phase
  /-- (f): four values, those that CONV computes from FREQ (R112), or none at all -/
  dur_held : if durPhase s.phase then
      (s.freq.bind (durations s.params.tickMax)).map DurFile.ofDurations = some s.dur
    else s.dur = DurFile.empty
  /-- (g) -/
  idx_held : s.idx.isSome = decide (s.phase = .fill)
  idx_range : s.idx.getD 0 ≤ s.slots
  /-- (h): slot p holds a pair iff the walk has written it, and then the pair of the layout (R52, R151) -/
  sigbuf_wf : Memory.wf s.sigbuf = true
  sigbuf_range : ∀ e ∈ s.sigbuf, e.1 < s.slots
  sigbuf_held : ∀ p < s.slots, Memory.read s.sigbuf p =
    if ∃ t < s.walked, wpos t = p then some (selp s.dur.values (streamBit s.pixels p)) else none
  /-- (i) -/
  err_cause : s.err = false → s.cause = .none
  /-- (j) -/
  done_idle : s.done = true → s.phase = .idle
  /-- (k) -/
  err_done : s.err = true → s.done = true
  /-- R92, R104 rows 4 to 7: an INIT is in progress only while no binding exists -/
  claim_unbound : s.phase = .claim → s.bound = false
  /-- R25: DIV holds DIV_REF whenever it holds a value -/
  div_ref : s.div = none ∨ s.div = some Config.divRef
  /-- R25: PIN and CH are values of PIN_W and CH_W bits -/
  pin_range : s.pin.getD 0 < 2 ^ s.params.pinW
  ch_range : s.ch.getD 0 < 2 ^ s.params.chW
  /-- R111: the frequency is below 2^FREQ_W -/
  freq_range : s.freq.getD 0 < 2 ^ s.params.freqW
  /-- R171, 95_test_vectors.md 2.3: the causes of TRANSMIT's own errors are seen only while bound, NOT_BOUND only while not,
  INDEX never, and an error has a cause -/
  cause_bound : s.cause = .freq ∨ s.cause = .conv ∨ s.cause = .txStart ∨ s.cause = .txFault → s.bound = true
  cause_unbound : s.cause = .notBound → s.bound = false
  cause_not_index : s.cause ≠ .index
  err_has_cause : s.err = true → s.cause ≠ .none

/-- Every buffer that was offered to the peripheral is well formed (R53, R156). -/
def TraceOk (s : State) : Prop :=
  ∀ buf, Event.start buf ∈ s.trace → bufferWellFormed s.params.nPixels s.params.tickMax buf = true

/-- The two memories are in their canonical form. -/
def MemoriesCanonical (s : State) : Prop := Memory.wf s.pixl = true ∧ Memory.wf s.sigbuf = true

/-- The register and port writes of a completion, as the lists of R179 and R180 give them, for statements about what a meaning
answers. -/
def State.ended (err : Bool) (cause : Cause) (s : State) : State :=
  { s with
    done := true, err := err, cause := cause, phase := .idle, pixl := [], freq := none
    dur := ⟨none, none, none, none⟩, idx := none, sigbuf := [], rsp := some ⟨err, cause⟩ }

/-- TRANSMIT as one function (40_commands.md R96): the cause it ends with (NONE is Ok) and what it adds to the trace, from its
pixels and the answers it is given, later answers not consumed once an earlier check failed (R184). -/
def transmitSpec (tickMax : Nat) (px : List Color) (fq : FreqAnswer) (ts td : Answer) : Cause × List Event :=
  match fq with
  | .err => (.freq, [.freqQuery, .freqAns .err])
  | .ok f =>
    match durations tickMax f with
    | none => (.conv, [.freqQuery, .freqAns (.ok f)])
    | some d =>
      let asked := [.freqQuery, .freqAns (.ok f), .start (frame px d)]
      match ts, td with
      | .err, _ => (.txStart, asked ++ [.startAns .err])
      | .ok, .ok => (.none, asked ++ [.startAns .ok, .doneAns .ok])
      | .ok, .err => (.txFault, asked ++ [.startAns .ok, .doneAns .err])

/-- `k` steps of the block, stopping at the first fault or refusal. -/
def runSteps (k : Nat) (s : State) : Host.Outcome State Fault Refusal := Sys2Proof.core.run k s

end Sys2Proof.Machine
end

