-- ==== Sys2Proof/Certificates/Slice0/Obligations.lean ====
section
/-! DEFINITION. The statements for the provers, file by file of spec/. -/

open Sys2Proof Sys2Proof.Machine

/-! ### 30_encoding.md and 10_state.md R26: words, ports, codes -/

/-- Every well-formed instruction is what its own words decode to, every operand at every value (R71, R72, R76, R77, R86, R87). -/
def Obligations.DecodeEncodeRoundTrip : Prop :=
  ∀ (n : Nat) (i : Instr), i.wellFormed n = true → decode n (encode i) = .ok i

/-- R71, R76: OP = cmd_word[1:0] alone selects the command; INIT's fields are bits 7:2 and 11:8; every other bit is ignored. -/
def Obligations.CommandWordSelectsByOp : Prop :=
  ∀ (n : Nat) (w : BitVec 16) (pix : Nat), decode n (.command w pix) = .ok (
    if w.toNat % 4 = 0 then .nop
    else if w.toNat % 4 = 1 then .init (BitVec.ofNat 6 (w.toNat / 4)) (BitVec.ofNat 4 (w.toNat / 256))
    else if w.toNat % 4 = 2 then .transmit ⟨n, unpackPixels n pix⟩
    else .release)

/-- R72: pixel i is pix_data[24i+23 : 24i], red in bits 23:16, green in 15:8, blue in 7:0; exactly N of them. -/
def Obligations.PixelOperandPacking : Prop :=
  ∀ (n pix : Nat), (unpackPixels n pix).toList.length = n ∧
    ∀ i < n, (unpackPixels n pix)[i]? = some
      { red := BitVec.ofNat 8 (pix / 2 ^ (24 * i + 16)), green := BitVec.ofNat 8 (pix / 2 ^ (24 * i + 8)),
        blue := BitVec.ofNat 8 (pix / 2 ^ (24 * i)) }

/-- R26, R80, R87: each phase's code decodes to its row, no other code does, and code 7 is rejected. -/
def Obligations.PhaseCodesDecode : Prop :=
  (∀ (n : Nat) (p : Phase), decode n (.phase p.code) = .ok p.toInstr) ∧
  (∀ (c : BitVec 3) (p : Phase), decodePhase c = .ok p → c = p.code) ∧
  (∀ n : Nat, decode n (.phase 7) = .error .reservedPhase)

/-- R87, R86: a code that decodes is matched by the row of the instruction it decodes to and by no other instruction's row; no two
instructions' rows match the same value; no row matches phase code 7.  `ctorIdx` is the number of an instruction's constructor,
one per row of the table. -/
def Obligations.TableRowsDoNotOverlap : Prop :=
  (∀ (n : Nat) (c : Code) (k : Instr), decode n c = .ok k → ∀ i : Instr, i.row.matches c = true ↔ i.ctorIdx = k.ctorIdx) ∧
  (∀ (c : Code) (i j : Instr), i.row.matches c = true → j.row.matches c = true → i.ctorIdx = j.ctorIdx) ∧
  (∀ i : Instr, i.row.matches (.phase 7) = false)

/-- 95_test_vectors.md 2.1 and 2.2: command words written out from R71, and a pixel operand written out from R72. -/
def Obligations.SpecWordsDecode : Prop :=
  decode 1 (.command 0x0000 0) = .ok .nop ∧
  decode 1 (.command 0x0049 0) = .ok (.init 18 0) ∧
  decode 1 (.command 0x0FFD 0) = .ok (.init 63 15) ∧
  decode 1 (.command 0x0315 0) = .ok (.init 5 3) ∧
  decode 1 (.command 0xF002 0x123456) = .ok (.transmit ⟨1, #v[⟨0x12, 0x34, 0x56⟩]⟩) ∧
  decode 1 (.command 0xFFFF 0) = .ok .release ∧
  decode 1 (.symbol 1) = .ok .sym1 ∧
  decode 1 (.phase 4) = .ok .fill

/-- R74: the pair word is (lo << 16) | 0x8000 | hi, for tick counts of 15 bits. -/
def Obligations.PairWordLayout : Prop :=
  durWidth 32767 = 15 ∧
  ∀ hi lo : Nat, hi ≤ 32767 → lo ≤ 32767 →
    pairWord 15 (mkPair hi lo) = (lo <<< 16 ||| 0x8000 ||| hi) ∧
    pairWord 15 (mkPair hi lo) = lo * 65536 + 32768 + hi

/-- R31: the bits of STATUS; and the codes of CAUSE in its bits 6:4 (R171). -/
def Obligations.StatusLayout : Prop :=
  (∀ s : State,
    s.status.getLsbD 0 = s.bound ∧ s.status.getLsbD 1 = decide (s.phase ≠ .idle) ∧ s.status.getLsbD 2 = s.done ∧
    s.status.getLsbD 3 = s.err ∧ s.status.extractLsb' 4 3 = s.cause.code ∧ s.status.getLsbD 7 = false) ∧
  [Cause.none, .claim, .freq, .conv, .index, .txStart, .txFault, .notBound].map Cause.code = [0, 1, 2, 3, 4, 5, 6, 7]

/-- R70, R85, R75: the output ports that are views of the registers.  In EMIT tx_rd_data is the pair word of the slot that
tx_rd_idx, a port of ceil(log2(24N)) bits (log 17), names; where it carries 24N or more the word is free: the model's choice
(log 23), as is the pair word's layout for a TICK_MAX other than 32767 (log 24). -/
def Obligations.OutputPortsFollowPhase : Prop :=
  ∀ s : State,
    (s.cmdReady = true ↔ s.phase = .idle) ∧ (s.claimReq = true ↔ s.phase = .claim) ∧
    (s.freqReq = true ↔ s.phase = .qfreq) ∧ (s.txStart = true ↔ s.phase = .submit) ∧
    s.claimPin = s.pin ∧ s.claimCh = s.ch ∧ s.claimDiv = s.div ∧ s.txLen = 24 * s.params.nPixels ∧
    (s.phase = .emit → s.ports.txRdIdx % 2 ^ ceilLog2 (24 * s.params.nPixels) < 24 * s.params.nPixels →
      ∀ pair, Memory.read s.sigbuf (s.ports.txRdIdx % 2 ^ ceilLog2 (24 * s.params.nPixels)) = some pair →
      s.txRdData = some (pairWord (durWidth s.params.tickMax) pair)) ∧
    (s.phase = .emit → 24 * s.params.nPixels ≤ s.ports.txRdIdx % 2 ^ ceilLog2 (24 * s.params.nPixels) →
      ∃ w : BitVec 32, s.txRdData = some w.toNat)

/-! ### The step (40_commands.md R90, R102, R104; 70_reset_and_hazards.md R200) -/

/-- R86, R104: without rst, a step executes the instruction it decodes and then takes the next values of the input ports
(log 3). -/
def Obligations.StepExecutesWhatItDecodes : Prop :=
  ∀ (s : State) (i : Instr), s.ports.rst = false → decode s.params.nPixels (fetch s) = .ok i →
    step s = match exec i s with
      | .next t => .next t.nextInputs
      | .fault f => .fault f
      | .refused r => .refused r

/-- R86, R28: what a step decodes is the command word with pix_data in an idle block with cmd_valid = 1, else the phase; and every
such code has an instruction. -/
def Obligations.FetchReadsPortOrPhase : Prop :=
  ∀ s : State,
    (s.phase = .idle → s.ports.cmdValid = true → fetch s = .command s.ports.cmdWord s.ports.pixData) ∧
    (s.phase ≠ .idle ∨ s.ports.cmdValid = false → fetch s = .phase s.phase.code) ∧
    ∃ i, decode s.params.nPixels (fetch s) = .ok i

/-- R90, R102: in IDLE nothing happens without a command, and with one the accept rule of that command is performed; while busy a
command that is presented changes nothing. -/
def Obligations.AcceptanceByPhase : Prop :=
  (∀ s : State, s.phase = .idle → s.ports.cmdValid = false →
    exec .idle s = .next { s with rsp := none, relReq := false }) ∧
  (∀ s : State, s.phase = .idle → s.ports.cmdValid = true →
    exec .idle s = exec (decodeCommand s.params.nPixels s.ports.cmdWord s.ports.pixData).toInstr s) ∧
  (∀ (s : State) (n : Nat) (c : Command n), s.phase ≠ .idle → exec c.toInstr s = .next s)

/-- R102: while PHASE != IDLE a step does not depend on cmd_valid, cmd_word or pix_data. -/
def Obligations.BusyStepIgnoresCommandPort : Prop :=
  ∀ (s : State) (valid : Bool) (word : BitVec 16) (pix : Nat), s.phase ≠ .idle →
    step { s with ports := { s.ports with cmdValid := valid, cmdWord := word, pixData := pix } } = step s

/-- R200, R40: rst = 1 in any phase gives the reset values of every register, reports no completion and sends nothing. -/
def Obligations.ResetOverridesEveryPhase : Prop :=
  ∀ s : State, s.ports.rst = true → ∃ t, step s = .next t ∧
    t.bound = false ∧ t.phase = .idle ∧ t.done = false ∧ t.err = false ∧ t.cause = .none ∧ t.status = 0 ∧
    t.pin = none ∧ t.ch = none ∧ t.div = none ∧ t.idx = none ∧ t.freq = none ∧
    t.dur = ⟨none, none, none, none⟩ ∧ (∀ i, Memory.read t.pixl i = none) ∧ (∀ p, Memory.read t.sigbuf p = none) ∧
    t.rspValid = false ∧ t.claimReq = false ∧ t.freqReq = false ∧ t.txStart = false ∧ t.relReq = false

/-- R40 at State.reset, and the reference parameters (R6, R8).  The values of BASE_CLK_HZ and T_RESET_NS are OPEN in R8, which names
them from general knowledge: that State.reset holds them is the model's choice (log 21). -/
def Obligations.ResetStateValues : Prop :=
  State.reset.bound = false ∧ State.reset.phase = .idle ∧ State.reset.done = false ∧ State.reset.err = false ∧
  State.reset.cause = .none ∧ State.reset.status = 0 ∧ State.reset.pin = none ∧ State.reset.ch = none ∧
  State.reset.div = none ∧ State.reset.idx = none ∧ State.reset.freq = none ∧
  State.reset.dur = ⟨none, none, none, none⟩ ∧ State.reset.pixl = [] ∧ State.reset.sigbuf = [] ∧
  State.reset.params.nPixels = 5 ∧ State.reset.params.tickMax = 32767 ∧ State.reset.params.freqW = 32 ∧
  State.reset.params.pinW = 6 ∧ State.reset.params.chW = 4 ∧
  State.reset.params.baseClkHz = 80000000 ∧ State.reset.params.tResetNs = 50000

/-- The model's choice (log 5, log 6): the trace survives a reset, and a request that was with the peripheral stands in it. -/
def Obligations.ResetKeepsTheTrace : Prop :=
  ∀ s : State, s.ports.rst = true → ∃ t, step s = .next t ∧
    (s.phase = .qfreq → t.trace = s.trace ++ [.freqQuery]) ∧
    (s.phase = .claim → ∀ pin ch div, s.pin = some pin → s.ch = some ch → s.div = some div →
      t.trace = s.trace ++ [.claim pin ch div]) ∧
    (s.phase = .submit → ∀ buf, Memory.readRange s.sigbuf 0 (24 * s.params.nPixels) = some buf →
      t.trace = s.trace ++ [.start buf]) ∧
    (s.phase ∈ [.idle, .conv, .fill, .emit] → t.trace = s.trace)

/-! ### The commands (40_commands.md) and completion (60_exceptions.md) -/

/-- R179, R180: the register writes of a completion; R178: nothing else is done. -/
def Obligations.CompletionWrites : Prop :=
  ∀ s : State,
    complete s = .next { s with
      done := true, err := false, cause := .none, phase := .idle, pixl := [], freq := none
      dur := ⟨none, none, none, none⟩, idx := none, sigbuf := [], rsp := some ⟨false, .none⟩ } ∧
    ∀ c : Cause, raise c s = .next { s with
      done := true, err := true, cause := c, phase := .idle, pixl := [], freq := none
      dur := ⟨none, none, none, none⟩, idx := none, sigbuf := [], rsp := some ⟨true, c⟩ }

/-- R93: NOP is OP = 0b00 and completes Ok in the accepting step, bound or not; in a reachable state it touches DONE, ERR, CAUSE and
the response alone; from reset it leaves STATUS = 0x04. -/
def Obligations.NopCompletesOk : Prop :=
  (∀ (n : Nat) (w : BitVec 16) (pix : Nat), w.extractLsb' 0 2 = 0 → decode n (.command w pix) = .ok .nop) ∧
  (∀ s : State, s.phase = .idle → exec .nop s = .next ({ s with relReq := false }.ended false .none)) ∧
  (∀ s : State, Inv s → s.phase = .idle → exec .nop s = .next
    { s with done := true, err := false, cause := .none, rsp := some ⟨false, .none⟩, relReq := false }) ∧
  (∀ t, exec .nop State.reset = .next t → t.status = 0x04)

/-- R91: INIT is OP = 0b01 with PINF and CHF; in an idle block it raises CLAIM if bound, else writes PIN, CH, DIV and enters
CLAIM.  PIN and CH take the fields at their widths PIN_W and CH_W (R77 (a)); for widths other than 6 and 4 that is the model's
choice (log 2). -/
def Obligations.InitAcceptRule : Prop :=
  (∀ (n : Nat) (w : BitVec 16) (pix : Nat), w.extractLsb' 0 2 = 1 →
    decode n (.command w pix) = .ok (.init (w.extractLsb' 2 6) (w.extractLsb' 8 4))) ∧
  (∀ (pinf : PinField) (chf : ChField) (s : State), s.phase = .idle → exec (.init pinf chf) s = .next (
    if s.bound then { s with relReq := false }.ended true .claim
    else { s with
      done := false, err := false, cause := .none, div := some 2, phase := .claim
      pin := some (pinf.toNat % 2 ^ s.params.pinW), ch := some (chf.toNat % 2 ^ s.params.chW)
      rsp := none, relReq := false }))

/-- R95: TRANSMIT is OP = 0b10 with the pixels of pix_data; in an idle block it raises NOT_BOUND if unbound, else latches pixel i
into PIXL[i] and enters QFREQ. -/
def Obligations.TransmitAcceptRule : Prop :=
  (∀ (n : Nat) (w : BitVec 16) (pix : Nat), w.extractLsb' 0 2 = 2 →
    decode n (.command w pix) = .ok (.transmit ⟨n, unpackPixels n pix⟩)) ∧
  (∀ (s : State) (px : Vector Color s.params.nPixels), s.phase = .idle → ∃ m : Memory Color,
    (∀ i, Memory.read m i = px[i]?) ∧
    exec (.transmit ⟨s.params.nPixels, px⟩) s = .next (
      if s.bound then { s with
        done := false, err := false, cause := .none, pixl := m, phase := .qfreq, rsp := none, relReq := false }
      else { s with relReq := false }.ended true .notBound))

/-- R79: the operand of a block of another N is rejected, not truncated and not padded; the refusal by name is the model's form
(log 13). -/
def Obligations.WrongLengthIsRejected : Prop :=
  ∀ (px : PixelOperand) (s : State), s.phase = .idle → px.n ≠ s.params.nPixels →
    exec (.transmit px) s = .refused .wrongLength

/-- R100: RELEASE is OP = 0b11; in an idle block it raises NOT_BOUND if unbound, else sends the notice, clears the binding and
completes Ok. -/
def Obligations.ReleaseRule : Prop :=
  (∀ (n : Nat) (w : BitVec 16) (pix : Nat), w.extractLsb' 0 2 = 3 → decode n (.command w pix) = .ok .release) ∧
  (∀ s : State, s.phase = .idle → s.bound = false →
    exec .release s = .next ({ s with relReq := false }.ended true .notBound)) ∧
  (∀ (s : State) (pin : PinNo) (ch : ChNo), s.phase = .idle → s.bound = true → s.pin = some pin → s.ch = some ch →
    exec .release s = .next ({ s with
      bound := false, pin := none, ch := none, div := none, relReq := true
      trace := s.trace ++ [Event.release pin ch] }.ended false .none))

/-! ### The steps of the phases -/

/-- R92: the claim answer.  What the trace gains is left open here. -/
def Obligations.ClaimAnswerRule : Prop :=
  ∀ (s : State) (pin : PinNo) (ch : ChNo) (div : BitVec 8),
    s.phase = .claim → s.pin = some pin → s.ch = some ch → s.div = some div → ∃ es,
    exec .claim s = .next (
      if s.ports.claimAck = false then { s with rsp := none, relReq := false }
      else if s.ports.claimErr = false then
        { s with bound := true, relReq := false, trace := s.trace ++ es }.ended false .none
      else { s with pin := none, ch := none, div := none, relReq := false, trace := s.trace ++ es }.ended true .claim)

/-- R110: the frequency query; freq_hz is a port of FREQ_W bits (R85, log 17).  That freq_ack with freq_err is Err and freq_err alone no
answer is the model's reading of R85 (log 25).  What the trace gains is left open here. -/
def Obligations.FrequencyQueryRule : Prop :=
  ∀ s : State, s.phase = .qfreq → ∃ es,
    exec .qfreq s = .next (
      if s.ports.freqAck = false then { s with rsp := none, relReq := false }
      else if s.ports.freqErr = false then
        { s with
          freq := some (s.ports.freqHz % 2 ^ s.params.freqW), phase := .conv, rsp := none, relReq := false
          trace := s.trace ++ es }
      else { s with relReq := false, trace := s.trace ++ es }.ended true .freq)

/-- R112, R114: CONV computes the four tick counts, raises CONV if one is 0 or above TICK_MAX, else writes DUR and starts the
walk. -/
def Obligations.ConversionRule : Prop :=
  ∀ (s : State) (f : Nat), s.phase = .conv → s.freq = some f →
    let t0h := 350 * f / 1000000000
    let t0l := 800 * f / 1000000000
    let t1h := 700 * f / 1000000000
    let t1l := 600 * f / 1000000000
    exec .conv s = .next (
      if t0h = 0 ∨ t0l = 0 ∨ t1h = 0 ∨ t1l = 0 then { s with relReq := false }.ended true .conv
      else if s.params.tickMax < t0h ∨ s.params.tickMax < t0l ∨ s.params.tickMax < t1h ∨ s.params.tickMax < t1l then
        { s with relReq := false }.ended true .conv
      else { s with
        dur := ⟨some t0h, some t0l, some t1h, some t1l⟩, idx := some 0, phase := .fill, rsp := none, relReq := false })

/-- R148: one FILL step extracts one bit, selects its pair and writes the one slot the walk counter maps to. -/
def Obligations.FillStepWritesOneSlot : Prop :=
  ∀ (s : State) (i : Nat) (c : Color) (d : Durations),
    s.phase = .fill → s.idx = some i → i < 24 * s.params.nPixels → Memory.read s.pixl (i / 24) = some c →
    s.dur = ⟨some d.t0h, some d.t0l, some d.t1h, some d.t1l⟩ → ∃ m : Memory Pair,
    exec .fill s = .next { s with sigbuf := m, idx := some (i + 1), rsp := none, relReq := false } ∧
    ∀ p, Memory.read m p =
      if p = 8 * (i / 8) + 7 - i % 8 then
        some (if (if i % 24 / 8 = 0 then c.green else if i % 24 / 8 = 1 then c.red else c.blue).getLsbD (i % 8)
          then ⟨⟨.high, d.t1h⟩, ⟨.low, d.t1l⟩⟩ else ⟨⟨.high, d.t0h⟩, ⟨.low, d.t0l⟩⟩)
      else Memory.read s.sigbuf p

/-- R150: at IDX = 24N the fill phase is left. -/
def Obligations.FillExitRule : Prop :=
  ∀ s : State, s.phase = .fill → s.idx = some (24 * s.params.nPixels) →
    exec .fill s = .next { s with idx := none, phase := .submit, rsp := none, relReq := false }

/-- R78, R119 with R146, R148 (log 8): SYM0 writes PAIR0 and SYM1 writes PAIR1 into the walk's slot, every other slot unchanged;
and a FILL step is the symbol its data bit names. -/
def Obligations.SymbolRowsSelectPairs : Prop :=
  (∀ (s : State) (i h l : Nat), s.phase = .fill → s.idx = some i → i < 24 * s.params.nPixels →
    s.dur.t0h = some h → s.dur.t0l = some l → ∃ m : Memory Pair,
    exec .sym0 s = .next { s with sigbuf := m, idx := some (i + 1), rsp := none, relReq := false } ∧
    ∀ p, Memory.read m p = if p = wpos i then some ⟨⟨.high, h⟩, ⟨.low, l⟩⟩ else Memory.read s.sigbuf p) ∧
  (∀ (s : State) (i h l : Nat), s.phase = .fill → s.idx = some i → i < 24 * s.params.nPixels →
    s.dur.t1h = some h → s.dur.t1l = some l → ∃ m : Memory Pair,
    exec .sym1 s = .next { s with sigbuf := m, idx := some (i + 1), rsp := none, relReq := false } ∧
    ∀ p, Memory.read m p = if p = wpos i then some ⟨⟨.high, h⟩, ⟨.low, l⟩⟩ else Memory.read s.sigbuf p) ∧
  (∀ (s : State) (i : Nat) (b : Byte), s.phase = .fill → s.idx = some i → i < 24 * s.params.nPixels →
    byteSel s.pixl (walkByte i) = some b →
    exec .fill s = exec (decodeSymbol (BitVec.ofBool (xbit b (walkBit i)))) s)

/-- R146: WSLOT at a slot number of 24N or more raises INDEX and writes nothing; below it, it writes that slot alone. -/
def Obligations.SlotWriteRangeCheck : Prop :=
  (∀ (p : Nat) (pair : Pair) (s : State) (k : State → Result), 24 * s.params.nPixels ≤ p →
    wslot p pair s k = .next (s.ended true .index)) ∧
  (∀ (p : Nat) (pair : Pair) (s : State) (k : State → Result), p < 24 * s.params.nPixels → ∃ m : Memory Pair,
    wslot p pair s k = k { s with sigbuf := m } ∧
    ∀ q, Memory.read m q = if q = p then some pair else Memory.read s.sigbuf q)

/-- R155: SUBMIT hands the whole buffer over; without an answer nothing changes; ack goes on to EMIT, nack raises TXSTART; the
trace gains the buffer and the answer. -/
def Obligations.SubmitRule : Prop :=
  ∀ (s : State) (buf : List Pair), s.phase = .submit → buf.length = 24 * s.params.nPixels →
    (∀ p < 24 * s.params.nPixels, Memory.read s.sigbuf p = buf[p]?) →
    (s.ports.txAck = false → s.ports.txNack = false →
      exec .submit s = .next { s with rsp := none, relReq := false }) ∧
    (s.ports.txAck = true → s.ports.txNack = false →
      exec .submit s = .next { s with
        phase := .emit, rsp := none, relReq := false, trace := s.trace ++ [Event.start buf, .startAns .ok] }) ∧
    (s.ports.txAck = false → s.ports.txNack = true →
      exec .submit s = .next (
        { s with relReq := false, trace := s.trace ++ [Event.start buf, .startAns .err] }.ended true .txStart))

/-- The model's choice (log 4): ack and nack raised together is an answer, one of the two. -/
def Obligations.BothStartLinesIsOneAnswer : Prop :=
  ∀ (s : State) (buf : List Pair), s.phase = .submit → Memory.readRange s.sigbuf 0 (24 * s.params.nPixels) = some buf →
    s.ports.txAck = true → s.ports.txNack = true →
    exec .submit s = .next { s with
      phase := .emit, rsp := none, relReq := false, trace := s.trace ++ [Event.start buf, .startAns .ok] } ∨
    exec .submit s = .next (
      { s with relReq := false, trace := s.trace ++ [Event.start buf, .startAns .err] }.ended true .txStart)

/-- R157: EMIT waits for the completion answer; Ok completes, Err raises TXFAULT. -/
def Obligations.EmitRule : Prop :=
  ∀ s : State, s.phase = .emit → exec .emit s = .next (
    if s.ports.txDone = false then { s with rsp := none, relReq := false }
    else if s.ports.txFault = false then
      { s with relReq := false, trace := s.trace ++ [Event.doneAns .ok] }.ended false .none
    else { s with relReq := false, trace := s.trace ++ [Event.doneAns .err] }.ended true .txFault)

/-- R104 rows 5, 10, 18, 21, R214: a waiting phase is left, and anything at all is changed in it, only by its answer.  That freq_err
raised without freq_ack is no answer to the query is the model's reading of R85 (log 25). -/
def Obligations.WaitingPhasesOnlyLeftByAnswer : Prop :=
  ∀ s t : State, s.ports.rst = false → step s = .next t →
    (s.phase = .claim → s.ports.claimAck = false → t = { s with rsp := none, relReq := false }.nextInputs) ∧
    (s.phase = .qfreq → s.ports.freqAck = false → t = { s with rsp := none, relReq := false }.nextInputs) ∧
    (s.phase = .submit → s.ports.txAck = false → s.ports.txNack = false →
      t = { s with rsp := none, relReq := false }.nextInputs) ∧
    (s.phase = .emit → s.ports.txDone = false → t = { s with rsp := none, relReq := false }.nextInputs)

/-- R101: a TRANSMIT completes Ok only in the step that consumes the Ok completion answer of the peripheral. -/
def Obligations.TransmitBlocksUntilDone : Prop :=
  ∀ s t : State, s.ports.rst = false → transmittingPhase s.phase = true → step s = .next t → t.phase = .idle →
    t.err = false → s.phase = .emit ∧ s.ports.txDone = true ∧ s.ports.txFault = false

/-- R104, R28: without rst, the only changes of phase are those of the table's rows. -/
def Obligations.PhaseOrder : Prop :=
  ∀ s t : State, s.ports.rst = false → step s = .next t → t.phase ∈
    (match s.phase with
      | .idle => [.idle, .claim, .qfreq]
      | .claim => [.claim, .idle]
      | .qfreq => [.qfreq, .conv, .idle]
      | .conv => [.fill, .idle]
      | .fill => [.fill, .submit]
      | .submit => [.submit, .emit, .idle]
      | .emit => [.emit, .idle] : List Phase)

/-! ### Whole-machine rules -/

/-- The invariants of R42, and the well-formed trace, hold at reset. -/
def Obligations.ResetMeetsInvariants : Prop :=
  Inv State.reset ∧ TraceOk State.reset ∧ MemoriesCanonical State.reset

/-- R42: every step keeps the invariants. -/
def Obligations.StepKeepsInvariants : Prop :=
  ∀ s t : State, Inv s → step s = .next t → Inv t

/-- R41, R42, R104: where the invariants hold a row of the table applies, and no step reads a register that holds no value. -/
def Obligations.InvariantStepAnswers : Prop :=
  ∀ s : State, Inv s → ∃ t, step s = .next t

/-- R53, R156: every buffer that is offered to the peripheral has exactly 24N well-formed pairs. -/
def Obligations.OfferedBuffersWellFormed : Prop :=
  ∀ s t : State, Inv s → TraceOk s → step s = .next t → TraceOk t

/-- Every step keeps the two memories in their canonical form (log 19). -/
def Obligations.MemoriesStayCanonical : Prop :=
  ∀ s t : State, MemoriesCanonical s → step s = .next t → MemoriesCanonical t

/-- R175: no step ends a command with CAUSE = INDEX, from whatever state. -/
def Obligations.IndexIsNeverRaised : Prop :=
  ∀ s t : State, step s = .next t → t.cause = .index → s.cause = .index ∧ t.rsp = none

/-- R38, R6, R8: N, TICK_MAX, FREQ_W, PIN_W, CH_W, BASE_CLK_HZ and T_RESET_NS are arguments; that they stand in State is the model's
choice (log 1). -/
def Obligations.ParametersNeverChange : Prop :=
  ∀ s t : State, step s = .next t → t.params = s.params

/-- R106, R24: without rst, the binding changes only in the accepting step of an INIT on an unbound block, in the step that
consumes the claim answer, and in a RELEASE on a bound block. -/
def Obligations.BindingChangesOnlyByInitAndRelease : Prop :=
  ∀ s t : State, s.ports.rst = false → step s = .next t →
    (t.bound = s.bound ∧ t.pin = s.pin ∧ t.ch = s.ch ∧ t.div = s.div) ∨
    (s.phase = .idle ∧ s.ports.cmdValid = true ∧ s.ports.cmdWord.extractLsb' 0 2 = 1 ∧ s.bound = false ∧
      t.bound = false ∧ t.phase = .claim) ∨
    (s.phase = .idle ∧ s.ports.cmdValid = true ∧ s.ports.cmdWord.extractLsb' 0 2 = 3 ∧ s.bound = true ∧
      t.bound = false ∧ t.pin = none ∧ t.ch = none ∧ t.div = none) ∨
    (s.phase = .claim ∧ s.ports.claimAck = true ∧ s.ports.claimErr = false ∧ t.bound = true ∧
      t.pin = s.pin ∧ t.ch = s.ch ∧ t.div = s.div) ∨
    (s.phase = .claim ∧ s.ports.claimAck = true ∧ s.ports.claimErr = true ∧ t.bound = s.bound ∧
      t.pin = none ∧ t.ch = none ∧ t.div = none)

/-- R36, R60: while the buffer is being handed over or belongs to the peripheral no slot is written, and in FILL no pixel is. -/
def Obligations.BufferStableDuringHandOver : Prop :=
  ∀ s t : State, s.ports.rst = false → step s = .next t → t.phase ≠ .idle →
    ((s.phase = .submit ∨ s.phase = .emit) → t.sigbuf = s.sigbuf ∧ t.pixl = s.pixl ∧ t.dur = s.dur ∧ t.freq = s.freq) ∧
    (s.phase = .fill → t.pixl = s.pixl ∧ t.dur = s.dur ∧ t.freq = s.freq)

/-- R70, R90, R187: rsp_valid is 1 exactly after a step that completed a command, and carries what was written to ERR and CAUSE;
after any other step that accepted no command DONE, ERR and CAUSE are as before. -/
def Obligations.ResponseExactlyAtCompletion : Prop :=
  ∀ s t : State, s.ports.rst = false → step s = .next t →
    (t.rsp = if t.phase = .idle ∧ (s.phase ≠ .idle ∨ s.ports.cmdValid = true) then some ⟨t.err, t.cause⟩ else none) ∧
    (t.rsp.isSome = true → t.done = true) ∧
    (s.phase = .idle → s.ports.cmdValid = false → t.done = s.done ∧ t.err = s.err ∧ t.cause = s.cause)

/-- R108: what each step adds to the trace, without rst.  The model's choices: a request is recorded in the step that
consumes its answer (log 5); freq_ack with freq_err is the answer Err and freq_err alone no answer (log 25); tx_ack and tx_nack
raised together are one answer, which of the two is free (log 4). -/
def Obligations.TraceEventsOfAStep : Prop :=
  ∀ s t : State, s.ports.rst = false → step s = .next t →
    (s.phase ∈ [.conv, .fill] → t.trace = s.trace) ∧
    (s.phase = .idle → t.trace = s.trace ∨ ∃ pin ch, s.pin = some pin ∧ s.ch = some ch ∧
      s.ports.cmdValid = true ∧ s.bound = true ∧ t.relReq = true ∧ t.trace = s.trace ++ [.release pin ch]) ∧
    (s.phase = .claim → if s.ports.claimAck = false then t.trace = s.trace else ∃ pin ch div,
      s.pin = some pin ∧ s.ch = some ch ∧ s.div = some div ∧
      t.trace = s.trace ++ [.claim pin ch div, .claimAns (if s.ports.claimErr then .err else .ok)]) ∧
    (s.phase = .qfreq → t.trace = s.trace ++
      (if s.ports.freqAck = false then []
       else [.freqQuery, .freqAns (if s.ports.freqErr then .err else .ok (s.ports.freqHz % 2 ^ s.params.freqW))])) ∧
    (s.phase = .submit → if s.ports.txAck = false ∧ s.ports.txNack = false then t.trace = s.trace else ∃ buf a,
      Memory.readRange s.sigbuf 0 (24 * s.params.nPixels) = some buf ∧
      (s.ports.txNack = false → a = .ok) ∧ (s.ports.txAck = false → a = .err) ∧
      t.trace = s.trace ++ [.start buf, .startAns a]) ∧
    (s.phase = .emit → t.trace = s.trace ++
      (if s.ports.txDone = false then [] else [.doneAns (if s.ports.txFault then .err else .ok)]))

/-- R64, R65: a step offers a buffer only in phase SUBMIT (a reset in that phase included), and the buffer is the whole of SIGBUF. -/
def Obligations.BufferOfferedOnlyFromSubmit : Prop :=
  ∀ (s t : State), step s = .next t → ∃ es, t.trace = s.trace ++ es ∧
    ∀ buf, Event.start buf ∈ es → s.phase = .submit ∧ buf.length = 24 * s.params.nPixels ∧
      ∀ p < 24 * s.params.nPixels, Memory.read s.sigbuf p = buf[p]?

/-- 95_test_vectors.md 2.3: the STATUS values no reachable state shows. -/
def Obligations.StatusValuesNeverShown : Prop :=
  ∀ s : State, Inv s →
    ¬(s.status.getLsbD 1 = true ∧ s.status.getLsbD 2 = true) ∧
    ¬(s.status.getLsbD 3 = true ∧ s.status.getLsbD 2 = false) ∧
    ¬(s.status.extractLsb' 4 3 ≠ 0 ∧ s.status.getLsbD 3 = false) ∧
    s.status ≠ 0x7D ∧ s.status ≠ 0x2C ∧ s.status ≠ 0x3C ∧ s.status ≠ 0x5C ∧ s.status ≠ 0x6C ∧ s.status ≠ 0x4D

/-! ### Durations, pairs, bits (41_pulse_duration.md, 42_bit_extractor.md, 20_memory.md) -/

/-- R115: the laws of the arithmetic; (d): the zero check need look at T0H only and the overflow check at T0L only. -/
def Obligations.TicksLaws : Prop :=
  (∀ ns ns' f, ns ≤ ns' → ticks ns f ≤ ticks ns' f) ∧
  (∀ ns f f', f ≤ f' → ticks ns f ≤ ticks ns f') ∧
  (∀ f, 2 * ticks 350 f ≤ ticks 700 f) ∧
  (∀ f, 1 ≤ ticks 350 f → ticks 350 f < ticks 700 f) ∧
  (∀ f, (∀ ns ∈ [350, 800, 700, 600], ticks ns f * 1000000000 = ns * f) ↔ 20000000 ∣ f) ∧
  (∀ tickMax f, durations tickMax f =
    if 1 ≤ ticks 350 f ∧ ticks 800 f ≤ tickMax then some ⟨ticks 350 f, ticks 800 f, ticks 700 f, ticks 600 f⟩ else none)

/-- R116 and 95_test_vectors.md 2.4: the corner cases of CONV. -/
def Obligations.ConversionCorners : Prop :=
  durations 32767 0 = none ∧ durations 32767 2857142 = none ∧
  durations 32767 2857143 = some ⟨1, 2, 2, 1⟩ ∧ durations 32767 33333333 = some ⟨11, 26, 23, 19⟩ ∧
  durations 32767 40000000 = some ⟨14, 32, 28, 24⟩ ∧ durations 32767 4294967295 = some ⟨1503, 3435, 3006, 2576⟩ ∧
  durations 255 318750000 = some ⟨111, 255, 223, 191⟩ ∧ durations 255 320000000 = none

/-- R120: whenever CONV succeeds, a pair the block built classifies as the bit it stands for, and a tie classifies as 0. -/
def Obligations.ClassifyInvertsSelect : Prop :=
  (∀ (tickMax f : Nat) (d : Durations), durations tickMax f = some d → ∀ b, classify d (selp d b) = b) ∧
  (∀ (d : Durations) (p : Pair), distance p.hi.dur d.t1h = distance p.hi.dur d.t0h → classify d p = false)

/-- R120, R136 (a): encoding a byte and classifying its eight pairs gives the byte back, its bit 7 in the first of them. -/
def Obligations.ByteRoundTrip : Prop :=
  ∀ (tickMax f : Nat) (d : Durations) (px : List Color) (m : Nat) (b : Byte),
    durations tickMax f = some d → (byteStream px)[m]? = some b →
    ∀ k < 8, ((frame px d)[8 * m + (7 - k)]?).map (classify d) = some (b.getLsbD k)

/-- R135, R137: the bit stream is the bytes green, red, blue of each pixel in order, each most significant bit first. -/
def Obligations.BitStreamOrder : Prop :=
  (∀ px : List Color, streamBits px = (byteStream px).flatMap fun b => (List.range 8).map fun j => b.getLsbD (7 - j)) ∧
  (∀ px : List Color, (streamBits px).length = 24 * px.length) ∧
  streamBits [⟨0x12, 0x34, 0x56⟩] =
    [false, false, true, true, false, true, false, false, false, false, false, true, false, false, true, false,
     false, true, false, true, false, true, true, false]

/-- R149: the walk writes every slot of 0..24N-1 exactly once. -/
def Obligations.WalkIsBijective : Prop :=
  (∀ n s, s < 24 * n → wpos s < 24 * n) ∧ (∀ s, wpos (wpos s) = s) ∧
  (∀ n p, p < 24 * n → ∃ s, s < 24 * n ∧ wpos s = p ∧ ∀ s', s' < 24 * n → wpos s' = p → s' = s) ∧
  (∀ s, wpos s = 8 * walkByte s + 7 - walkBit s)

/-- R52: in phases SUBMIT and EMIT slot 24i + 8c + (7 - k) holds the pair of bit k of channel c of pixel i, the channels in the
order green, red, blue. -/
def Obligations.CompletedBufferLayout : Prop :=
  ∀ s : State, Inv s → s.phase = .submit ∨ s.phase = .emit → ∀ i < s.params.nPixels, ∃ col pair0 pair1,
    Memory.read s.pixl i = some col ∧ s.pair0? = some pair0 ∧ s.pair1? = some pair1 ∧ ∀ k < 8,
    Memory.read s.sigbuf (24 * i + (7 - k)) = some (if col.green.getLsbD k then pair1 else pair0) ∧
    Memory.read s.sigbuf (24 * i + 8 + (7 - k)) = some (if col.red.getLsbD k then pair1 else pair0) ∧
    Memory.read s.sigbuf (24 * i + 16 + (7 - k)) = some (if col.blue.getLsbD k then pair1 else pair0)

/-- R160: the waveform of a well-formed buffer has 48N pulses, pair by pair the high pulse and then the low one, alternating high and
low from a high one to a low one. -/
def Obligations.WaveformAlternates : Prop :=
  ∀ (n tickMax : Nat) (buf : List Pair), bufferWellFormed n tickMax buf = true →
    (wave buf).length = 48 * n ∧
    (∀ p < 24 * n, (wave buf)[2 * p]? = (buf[p]?).map Pair.hi ∧ (wave buf)[2 * p + 1]? = (buf[p]?).map Pair.lo) ∧
    (∀ q < 48 * n, ((wave buf)[q]?).map Pulse.level = some (if q % 2 = 0 then .high else .low))

/-- R161: the length of a frame in ticks. -/
def Obligations.FrameLengthInTicks : Prop :=
  ∀ (px : List Color) (d : Durations),
    waveTicks (wave (frame px d)) =
      (streamBits px).count false * (d.t0h + d.t0l) + (streamBits px).count true * (d.t1h + d.t1l) ∧
    (streamBits px).count false + (streamBits px).count true = 24 * px.length

/-- R65, R177, R185: what the pin carried of an offered buffer, start by start.  Nothing if the start was refused; a prefix of that
buffer's own waveform if the start was accepted and its completion answered, the whole of it if that answer was Ok.  Of a start
without its answer or its completion, which a reset abandoned or whose frame is still under way, nothing is claimed: what is
on the pin is unknown (R201, U13; log 26).  So where every start was refused or completed, the pin carried prefixes only. -/
def Obligations.PinCarriesPrefixes : Prop :=
  (∀ (k : Nat) (buf : List Pair) (es : List Event), ∃ w, carriedFrom k (.start buf :: es) = w :: carriedFrom (k + 1) es ∧
    (∀ rest, es = .startAns .err :: rest → w = []) ∧
    (∀ a rest, es = .startAns .ok :: .doneAns a :: rest → w <+: wave buf ∧ (a = .ok → w = wave buf))) ∧
  (∀ (k : Nat) (es : List Event),
    (∀ pre buf post, es = pre ++ .start buf :: post →
      (∃ rest, post = .startAns .err :: rest) ∨ ∃ a rest, post = .startAns .ok :: .doneAns a :: rest) →
    ∀ w ∈ carriedFrom k es, ∃ buf, Event.start buf ∈ es ∧ w <+: wave buf) ∧
  (∀ (k : Nat) (es : List Event), (∀ buf, Event.start buf ∉ es) → carriedFrom k es = [])

/-! ### Runs of many steps -/

/-- R151, R148, R150: from IDX = 0, 24N + 1 steps without a reset fill the whole buffer with the frame of the latched pixels and
leave the phase. -/
def Obligations.FillBuildsTheFrame : Prop :=
  ∀ s : State, Inv s → s.phase = .fill → s.idx = some 0 → s.ports.rst = false →
    24 * s.params.nPixels ≤ s.script.length → (∀ i ∈ s.script.take (24 * s.params.nPixels), i.rst = false) →
    ∃ t, runSteps (24 * s.params.nPixels + 1) s = .next t ∧ t.phase = .submit ∧ t.idx = none ∧
      Memory.readRange t.sigbuf 0 (24 * s.params.nPixels) = some (frame s.pixels s.dur.values) ∧
      t.pixl = s.pixl ∧ t.dur = s.dur ∧ t.freq = s.freq ∧ t.trace = s.trace ∧ t.bound = s.bound

/-- R96, R184, R101: from an idle bound block, a TRANSMIT whose answers come as soon as they are asked for ends, at the latest after
24N + 6 steps and busy in between, with the result and the requests of TRANSMIT as one function, still bound, nothing kept.
How the answers are read off the ports is the model's reading for freq_err (log 25) and for both start lines raised (log 4), and
where the trace shows a request is log 5. -/
def Obligations.TransmitRunsAsOneFunction : Prop :=
  ∀ (s : State) (px : Vector Color s.params.nPixels) (q a z : Inputs) (mid rest : List Inputs) (fq : FreqAnswer) (ts td : Answer),
    Inv s → s.phase = .idle → s.bound = true → s.ports.rst = false → s.ports.cmdValid = true →
    decodeCommand s.params.nPixels s.ports.cmdWord s.ports.pixData = .transmit px →
    s.script = q :: mid ++ a :: z :: rest → mid.length = 24 * s.params.nPixels + 2 →
    q.rst = false → (∀ i ∈ mid, i.rst = false) → a.rst = false → z.rst = false →
    freqAnswer s.params.freqW q = some fq → (∀ tick, startAnswer tick a = some ts) → doneAnswer z = some td →
    ∃ k t, k ≤ 24 * s.params.nPixels + 6 ∧ runSteps k s = .next t ∧
      (∀ j, 0 < j → j < k → ∃ u, runSteps j s = .next u ∧ u.phase ≠ .idle) ∧
      t.phase = .idle ∧ t.done = true ∧ t.bound = true ∧
      t.cause = (transmitSpec s.params.tickMax px.toList fq ts td).1 ∧ t.err = decide (t.cause ≠ .none) ∧
      t.trace = s.trace ++ (transmitSpec s.params.tickMax px.toList fq ts td).2 ∧
      t.pixl = [] ∧ t.freq = none ∧ t.dur = ⟨none, none, none, none⟩ ∧ t.idx = none ∧ t.sigbuf = []
end

