-- ==== Sys2Proof/Laws/Decode.lean ====
section
/-! SUPPORT. The pixel operand word by word, and the widths of ports. -/

namespace Sys2Proof

@[simp] theorem packPixels_nil : packPixels [] = 0 := rfl

/-- The first colour stands in the low 24 bits. -/
theorem packPixels_cons (c : Color) (cs : List Color) :
    packPixels (c :: cs) = (wordOfColor c).toNat + 2 ^ 24 * packPixels cs := rfl

/-- Colour `i` is read from the 24 bits from bit 24i on. -/
@[simp] theorem getElem_unpackPixels (n data i : Nat) (h : i < n) :
    (unpackPixels n data)[i] = colorOfWord (BitVec.ofNat 24 (data >>> (24 * i))) := by
  simp [unpackPixels]

namespace Machine

/-- What ceil(log2 k) is: the least width whose numbers are k or more. -/
theorem ceilLog2_le (k w : Nat) : ceilLog2 k ≤ w ↔ k ≤ 2 ^ w := by
  unfold ceilLog2
  have hp : 0 < 2 ^ w := Nat.two_pow_pos w
  split
  · omega
  · rw [Nat.succ_le_iff, Nat.log2_lt (by omega)]; omega

/-- The port tx_rd_idx can name every slot. -/
theorem rdIdx_of_slot {s : State} (h : s.ports.txRdIdx < s.slots) : s.rdIdx = s.ports.txRdIdx :=
  Nat.mod_eq_of_lt (Nat.lt_of_lt_of_le h ((ceilLog2_le _ _).1 (Nat.le_refl _)))

end Machine

end Sys2Proof
end

