-- ==== Sys2Proof/Laws/Memory.lean ====
section
/-! SUPPORT. The laws of the element-addressed spaces: read after write, whole-space loads, the canonical form. -/

namespace Sys2Proof.Machine

variable {α : Type}

@[simp] theorem Memory.read_nil (a : Nat) : Memory.read ([] : Memory α) a = none := rfl

@[simp] theorem Memory.wf_nil : Memory.wf ([] : Memory α) = true := rfl

/-- A read after a write: the value written at that address, every other address as before. -/
theorem Memory.read_write (m : Memory α) (a : Nat) (v : α) (b : Nat) :
    Memory.read (Memory.write m a v) b = if b = a then some v else Memory.read m b := by
  induction m with
  | nil => simp [Memory.write, Memory.read]
  | cons e m ih =>
    obtain ⟨c, u⟩ := e
    simp only [Memory.write]
    split
    · simp [Memory.read]
    · split
      · subst a
        simp only [Memory.read]
        split <;> simp_all
      · simp only [Memory.read, ih]
        split
        · subst b; rw [if_neg]; omega
        · rfl

/-- Every address of a canonical space lies above a bound that its first address lies above. -/
def Memory.above (a : Nat) : Memory α → Prop
  | [] => True
  | (b, _) :: _ => a < b

theorem Memory.wf_cons (a : Nat) (v : α) (m : Memory α) :
    Memory.wf ((a, v) :: m) = true ↔ Memory.above a m ∧ Memory.wf m = true := by
  cases m with
  | nil => simp [Memory.wf, Memory.above]
  | cons e m => obtain ⟨b, u⟩ := e; simp [Memory.wf, Memory.above]

theorem Memory.above_write {a b : Nat} {m : Memory α} (v : α) (hb : a < b) (hm : Memory.above a m) :
    Memory.above a (Memory.write m b v) := by
  cases m with
  | nil => exact hb
  | cons e m =>
    obtain ⟨c, u⟩ := e
    simp only [Memory.write]
    split
    · exact hb
    · split
      · exact hb
      · exact hm

/-- A write keeps the canonical form. -/
theorem Memory.wf_write {m : Memory α} (a : Nat) (v : α) (h : Memory.wf m = true) :
    Memory.wf (Memory.write m a v) = true := by
  induction m with
  | nil => rfl
  | cons e m ih =>
    obtain ⟨c, u⟩ := e
    obtain ⟨ha, hm⟩ := (Memory.wf_cons c u m).1 h
    simp only [Memory.write]
    split
    · exact (Memory.wf_cons _ _ _).2 ⟨‹_›, h⟩
    · split
      · subst a; exact (Memory.wf_cons _ _ _).2 ⟨ha, hm⟩
      · exact (Memory.wf_cons _ _ _).2 ⟨Memory.above_write v (by omega) ha, ih hm⟩

/-- The addresses after a write. -/
theorem Memory.mem_write {m : Memory α} {a : Nat} {v : α} {e : Nat × α} (h : e ∈ Memory.write m a v) :
    e = (a, v) ∨ e ∈ m := by
  induction m with
  | nil => simpa [Memory.write] using h
  | cons c m ih =>
    obtain ⟨b, u⟩ := c
    simp only [Memory.write] at h
    split at h
    · simpa using h
    · split at h
      · rcases List.mem_cons.1 h with h | h
        · exact .inl h
        · exact .inr (List.mem_cons_of_mem _ h)
      · rcases List.mem_cons.1 h with h | h
        · exact .inr (h ▸ List.mem_cons_self)
        · exact (ih h).imp_right (List.mem_cons_of_mem _)

/-- A loaded list holds its elements at consecutive addresses, and nothing else. -/
theorem Memory.read_ofList (k : Nat) (xs : List α) (a : Nat) :
    Memory.read (Memory.ofList k xs) a = if k ≤ a then xs[a - k]? else none := by
  induction xs generalizing k with
  | nil => simp [Memory.ofList]
  | cons x xs ih =>
    simp only [Memory.ofList, Memory.read, ih]
    split
    · subst a; simp
    · split
      · rw [if_pos (by omega), show a - k = (a - (k + 1)) + 1 by omega, List.getElem?_cons_succ]
      · rw [if_neg (by omega)]

theorem Memory.keys_ofList (k : Nat) (xs : List α) :
    (Memory.ofList k xs).map Prod.fst = List.range' k xs.length := by
  induction xs generalizing k with
  | nil => rfl
  | cons x xs ih => simp [Memory.ofList, ih, List.range'_succ]

theorem Memory.values_ofList (k : Nat) (xs : List α) : (Memory.ofList k xs).map Prod.snd = xs := by
  induction xs generalizing k with
  | nil => rfl
  | cons x xs ih => simp [Memory.ofList, ih]

/-- A load gives a canonical space. -/
theorem Memory.wf_ofList (k : Nat) (xs : List α) : Memory.wf (Memory.ofList k xs) = true := by
  induction xs generalizing k with
  | nil => rfl
  | cons x xs ih =>
    refine (Memory.wf_cons _ _ _).2 ⟨?_, ih _⟩
    cases xs <;> simp [Memory.ofList, Memory.above]

/-- A space whose addresses are consecutive is a load of its elements. -/
theorem Memory.eq_ofList {m : Memory α} {k n : Nat} (h : m.map Prod.fst = List.range' k n) :
    m = Memory.ofList k (m.map Prod.snd) := by
  induction m generalizing k n with
  | nil => rfl
  | cons e m ih =>
    cases n with
    | zero => simp at h
    | succ n =>
      obtain ⟨a, v⟩ := e
      simp only [List.map_cons, List.range'_succ, List.cons.injEq] at h
      obtain ⟨rfl, h⟩ := h
      simpa [Memory.ofList] using ih h

/-- A space that holds no element at any address is empty. -/
theorem Memory.eq_nil_of_read {m : Memory α} (h : ∀ a, Memory.read m a = none) : m = [] := by
  cases m with
  | nil => rfl
  | cons e m => obtain ⟨a, v⟩ := e; simpa [Memory.read] using h a

/-- What is read was listed. -/
theorem Memory.mem_of_read {m : Memory α} {a : Nat} {v : α} (h : Memory.read m a = some v) : (a, v) ∈ m := by
  induction m with
  | nil => simp at h
  | cons e m ih =>
    obtain ⟨b, u⟩ := e
    simp only [Memory.read] at h
    split at h
    · cases h; subst a; exact List.mem_cons_self
    · exact List.mem_cons_of_mem _ (ih h)

/-- Reading a range answers exactly when every element of it is held, and gives them in order. -/
theorem Memory.readRange_eq_some {m : Memory α} {k n : Nat} {xs : List α} :
    Memory.readRange m k n = some xs ↔ xs.length = n ∧ ∀ i < n, Memory.read m (k + i) = xs[i]? := by
  induction n generalizing k xs with
  | zero =>
    simp only [Memory.readRange, Option.some.injEq]
    constructor
    · rintro rfl; simp
    · rintro ⟨h, -⟩; exact (List.length_eq_zero_iff.1 h).symm
  | succ n ih =>
    simp only [Memory.readRange]
    constructor
    · intro h
      split at h
      · rename_i x ys hx hy
        cases h
        obtain ⟨hl, hr⟩ := ih.1 hy
        refine ⟨by simp [hl], fun i hi => ?_⟩
        cases i with
        | zero => simpa using hx
        | succ i => simpa [Nat.add_assoc, Nat.add_comm 1 i] using hr i (by omega)
      · cases h
    · rintro ⟨hl, hr⟩
      cases xs with
      | nil => simp at hl
      | cons x xs =>
        have h0 : Memory.read m k = some x := by simpa using hr 0 (by omega)
        have h1 : Memory.readRange m (k + 1) n = some xs := by
          refine ih.2 ⟨by simpa using hl, fun i hi => ?_⟩
          simpa [Nat.add_assoc, Nat.add_comm 1 i] using hr (i + 1) (by omega)
        simp [h0, h1]

end Sys2Proof.Machine
end

