-- ==== Sys2Proof/Laws/State.lean ====
section
/-! SUPPORT. The fields of each named update of State: one lemma per field per update. -/

namespace Sys2Proof.Machine

/-! State.clearFlags -/

@[simp] theorem State.clearFlags_params (s : State) : s.clearFlags.params = s.params := rfl
@[simp] theorem State.clearFlags_bound (s : State) : s.clearFlags.bound = s.bound := rfl
@[simp] theorem State.clearFlags_pin (s : State) : s.clearFlags.pin = s.pin := rfl
@[simp] theorem State.clearFlags_ch (s : State) : s.clearFlags.ch = s.ch := rfl
@[simp] theorem State.clearFlags_div (s : State) : s.clearFlags.div = s.div := rfl
@[simp] theorem State.clearFlags_phase (s : State) : s.clearFlags.phase = s.phase := rfl
@[simp] theorem State.clearFlags_idx (s : State) : s.clearFlags.idx = s.idx := rfl
@[simp] theorem State.clearFlags_done (s : State) : s.clearFlags.done = false := rfl
@[simp] theorem State.clearFlags_err (s : State) : s.clearFlags.err = false := rfl
@[simp] theorem State.clearFlags_cause (s : State) : s.clearFlags.cause = Cause.none := rfl
@[simp] theorem State.clearFlags_pixl (s : State) : s.clearFlags.pixl = s.pixl := rfl
@[simp] theorem State.clearFlags_freq (s : State) : s.clearFlags.freq = s.freq := rfl
@[simp] theorem State.clearFlags_dur (s : State) : s.clearFlags.dur = s.dur := rfl
@[simp] theorem State.clearFlags_sigbuf (s : State) : s.clearFlags.sigbuf = s.sigbuf := rfl
@[simp] theorem State.clearFlags_rsp (s : State) : s.clearFlags.rsp = s.rsp := rfl
@[simp] theorem State.clearFlags_relReq (s : State) : s.clearFlags.relReq = s.relReq := rfl
@[simp] theorem State.clearFlags_ports (s : State) : s.clearFlags.ports = s.ports := rfl
@[simp] theorem State.clearFlags_script (s : State) : s.clearFlags.script = s.script := rfl
@[simp] theorem State.clearFlags_tick (s : State) : s.clearFlags.tick = s.tick := rfl
@[simp] theorem State.clearFlags_trace (s : State) : s.clearFlags.trace = s.trace := rfl

/-! State.setResult -/

@[simp] theorem State.setResult_params (e : Bool) (c : Cause) (s : State) : (s.setResult e c).params = s.params := rfl
@[simp] theorem State.setResult_bound (e : Bool) (c : Cause) (s : State) : (s.setResult e c).bound = s.bound := rfl
@[simp] theorem State.setResult_pin (e : Bool) (c : Cause) (s : State) : (s.setResult e c).pin = s.pin := rfl
@[simp] theorem State.setResult_ch (e : Bool) (c : Cause) (s : State) : (s.setResult e c).ch = s.ch := rfl
@[simp] theorem State.setResult_div (e : Bool) (c : Cause) (s : State) : (s.setResult e c).div = s.div := rfl
@[simp] theorem State.setResult_phase (e : Bool) (c : Cause) (s : State) : (s.setResult e c).phase = s.phase := rfl
@[simp] theorem State.setResult_idx (e : Bool) (c : Cause) (s : State) : (s.setResult e c).idx = s.idx := rfl
@[simp] theorem State.setResult_done (e : Bool) (c : Cause) (s : State) : (s.setResult e c).done = true := rfl
@[simp] theorem State.setResult_err (e : Bool) (c : Cause) (s : State) : (s.setResult e c).err = e := rfl
@[simp] theorem State.setResult_cause (e : Bool) (c : Cause) (s : State) : (s.setResult e c).cause = c := rfl
@[simp] theorem State.setResult_pixl (e : Bool) (c : Cause) (s : State) : (s.setResult e c).pixl = s.pixl := rfl
@[simp] theorem State.setResult_freq (e : Bool) (c : Cause) (s : State) : (s.setResult e c).freq = s.freq := rfl
@[simp] theorem State.setResult_dur (e : Bool) (c : Cause) (s : State) : (s.setResult e c).dur = s.dur := rfl
@[simp] theorem State.setResult_sigbuf (e : Bool) (c : Cause) (s : State) : (s.setResult e c).sigbuf = s.sigbuf := rfl
@[simp] theorem State.setResult_rsp (e : Bool) (c : Cause) (s : State) : (s.setResult e c).rsp = some ⟨e, c⟩ := rfl
@[simp] theorem State.setResult_relReq (e : Bool) (c : Cause) (s : State) : (s.setResult e c).relReq = s.relReq := rfl
@[simp] theorem State.setResult_ports (e : Bool) (c : Cause) (s : State) : (s.setResult e c).ports = s.ports := rfl
@[simp] theorem State.setResult_script (e : Bool) (c : Cause) (s : State) : (s.setResult e c).script = s.script := rfl
@[simp] theorem State.setResult_tick (e : Bool) (c : Cause) (s : State) : (s.setResult e c).tick = s.tick := rfl
@[simp] theorem State.setResult_trace (e : Bool) (c : Cause) (s : State) : (s.setResult e c).trace = s.trace := rfl

/-! State.quiet -/

@[simp] theorem State.quiet_params (s : State) : s.quiet.params = s.params := rfl
@[simp] theorem State.quiet_bound (s : State) : s.quiet.bound = s.bound := rfl
@[simp] theorem State.quiet_pin (s : State) : s.quiet.pin = s.pin := rfl
@[simp] theorem State.quiet_ch (s : State) : s.quiet.ch = s.ch := rfl
@[simp] theorem State.quiet_div (s : State) : s.quiet.div = s.div := rfl
@[simp] theorem State.quiet_phase (s : State) : s.quiet.phase = s.phase := rfl
@[simp] theorem State.quiet_idx (s : State) : s.quiet.idx = s.idx := rfl
@[simp] theorem State.quiet_done (s : State) : s.quiet.done = s.done := rfl
@[simp] theorem State.quiet_err (s : State) : s.quiet.err = s.err := rfl
@[simp] theorem State.quiet_cause (s : State) : s.quiet.cause = s.cause := rfl
@[simp] theorem State.quiet_pixl (s : State) : s.quiet.pixl = s.pixl := rfl
@[simp] theorem State.quiet_freq (s : State) : s.quiet.freq = s.freq := rfl
@[simp] theorem State.quiet_dur (s : State) : s.quiet.dur = s.dur := rfl
@[simp] theorem State.quiet_sigbuf (s : State) : s.quiet.sigbuf = s.sigbuf := rfl
@[simp] theorem State.quiet_rsp (s : State) : s.quiet.rsp = none := rfl
@[simp] theorem State.quiet_relReq (s : State) : s.quiet.relReq = false := rfl
@[simp] theorem State.quiet_ports (s : State) : s.quiet.ports = s.ports := rfl
@[simp] theorem State.quiet_script (s : State) : s.quiet.script = s.script := rfl
@[simp] theorem State.quiet_tick (s : State) : s.quiet.tick = s.tick := rfl
@[simp] theorem State.quiet_trace (s : State) : s.quiet.trace = s.trace := rfl

/-! State.log -/

@[simp] theorem State.log_params (es : List Event) (s : State) : (s.log es).params = s.params := rfl
@[simp] theorem State.log_bound (es : List Event) (s : State) : (s.log es).bound = s.bound := rfl
@[simp] theorem State.log_pin (es : List Event) (s : State) : (s.log es).pin = s.pin := rfl
@[simp] theorem State.log_ch (es : List Event) (s : State) : (s.log es).ch = s.ch := rfl
@[simp] theorem State.log_div (es : List Event) (s : State) : (s.log es).div = s.div := rfl
@[simp] theorem State.log_phase (es : List Event) (s : State) : (s.log es).phase = s.phase := rfl
@[simp] theorem State.log_idx (es : List Event) (s : State) : (s.log es).idx = s.idx := rfl
@[simp] theorem State.log_done (es : List Event) (s : State) : (s.log es).done = s.done := rfl
@[simp] theorem State.log_err (es : List Event) (s : State) : (s.log es).err = s.err := rfl
@[simp] theorem State.log_cause (es : List Event) (s : State) : (s.log es).cause = s.cause := rfl
@[simp] theorem State.log_pixl (es : List Event) (s : State) : (s.log es).pixl = s.pixl := rfl
@[simp] theorem State.log_freq (es : List Event) (s : State) : (s.log es).freq = s.freq := rfl
@[simp] theorem State.log_dur (es : List Event) (s : State) : (s.log es).dur = s.dur := rfl
@[simp] theorem State.log_sigbuf (es : List Event) (s : State) : (s.log es).sigbuf = s.sigbuf := rfl
@[simp] theorem State.log_rsp (es : List Event) (s : State) : (s.log es).rsp = s.rsp := rfl
@[simp] theorem State.log_relReq (es : List Event) (s : State) : (s.log es).relReq = s.relReq := rfl
@[simp] theorem State.log_ports (es : List Event) (s : State) : (s.log es).ports = s.ports := rfl
@[simp] theorem State.log_script (es : List Event) (s : State) : (s.log es).script = s.script := rfl
@[simp] theorem State.log_tick (es : List Event) (s : State) : (s.log es).tick = s.tick := rfl
@[simp] theorem State.log_trace (es : List Event) (s : State) : (s.log es).trace = s.trace ++ es := rfl

/-! State.discard -/

@[simp] theorem State.discard_params (s : State) : s.discard.params = s.params := rfl
@[simp] theorem State.discard_bound (s : State) : s.discard.bound = s.bound := rfl
@[simp] theorem State.discard_pin (s : State) : s.discard.pin = s.pin := rfl
@[simp] theorem State.discard_ch (s : State) : s.discard.ch = s.ch := rfl
@[simp] theorem State.discard_div (s : State) : s.discard.div = s.div := rfl
@[simp] theorem State.discard_phase (s : State) : s.discard.phase = Phase.idle := rfl
@[simp] theorem State.discard_idx (s : State) : s.discard.idx = none := rfl
@[simp] theorem State.discard_done (s : State) : s.discard.done = s.done := rfl
@[simp] theorem State.discard_err (s : State) : s.discard.err = s.err := rfl
@[simp] theorem State.discard_cause (s : State) : s.discard.cause = s.cause := rfl
@[simp] theorem State.discard_pixl (s : State) : s.discard.pixl = [] := rfl
@[simp] theorem State.discard_freq (s : State) : s.discard.freq = none := rfl
@[simp] theorem State.discard_dur (s : State) : s.discard.dur = DurFile.empty := rfl
@[simp] theorem State.discard_sigbuf (s : State) : s.discard.sigbuf = [] := rfl
@[simp] theorem State.discard_rsp (s : State) : s.discard.rsp = s.rsp := rfl
@[simp] theorem State.discard_relReq (s : State) : s.discard.relReq = s.relReq := rfl
@[simp] theorem State.discard_ports (s : State) : s.discard.ports = s.ports := rfl
@[simp] theorem State.discard_script (s : State) : s.discard.script = s.script := rfl
@[simp] theorem State.discard_tick (s : State) : s.discard.tick = s.tick := rfl
@[simp] theorem State.discard_trace (s : State) : s.discard.trace = s.trace := rfl

/-! State.setBinding -/

@[simp] theorem State.setBinding_params (p : Option PinNo) (c : Option ChNo) (d : Option (BitVec 8)) (s : State) : (s.setBinding p c d).params = s.params := rfl
@[simp] theorem State.setBinding_bound (p : Option PinNo) (c : Option ChNo) (d : Option (BitVec 8)) (s : State) : (s.setBinding p c d).bound = s.bound := rfl
@[simp] theorem State.setBinding_pin (p : Option PinNo) (c : Option ChNo) (d : Option (BitVec 8)) (s : State) : (s.setBinding p c d).pin = p := rfl
@[simp] theorem State.setBinding_ch (p : Option PinNo) (c : Option ChNo) (d : Option (BitVec 8)) (s : State) : (s.setBinding p c d).ch = c := rfl
@[simp] theorem State.setBinding_div (p : Option PinNo) (c : Option ChNo) (d : Option (BitVec 8)) (s : State) : (s.setBinding p c d).div = d := rfl
@[simp] theorem State.setBinding_phase (p : Option PinNo) (c : Option ChNo) (d : Option (BitVec 8)) (s : State) : (s.setBinding p c d).phase = s.phase := rfl
@[simp] theorem State.setBinding_idx (p : Option PinNo) (c : Option ChNo) (d : Option (BitVec 8)) (s : State) : (s.setBinding p c d).idx = s.idx := rfl
@[simp] theorem State.setBinding_done (p : Option PinNo) (c : Option ChNo) (d : Option (BitVec 8)) (s : State) : (s.setBinding p c d).done = s.done := rfl
@[simp] theorem State.setBinding_err (p : Option PinNo) (c : Option ChNo) (d : Option (BitVec 8)) (s : State) : (s.setBinding p c d).err = s.err := rfl
@[simp] theorem State.setBinding_cause (p : Option PinNo) (c : Option ChNo) (d : Option (BitVec 8)) (s : State) : (s.setBinding p c d).cause = s.cause := rfl
@[simp] theorem State.setBinding_pixl (p : Option PinNo) (c : Option ChNo) (d : Option (BitVec 8)) (s : State) : (s.setBinding p c d).pixl = s.pixl := rfl
@[simp] theorem State.setBinding_freq (p : Option PinNo) (c : Option ChNo) (d : Option (BitVec 8)) (s : State) : (s.setBinding p c d).freq = s.freq := rfl
@[simp] theorem State.setBinding_dur (p : Option PinNo) (c : Option ChNo) (d : Option (BitVec 8)) (s : State) : (s.setBinding p c d).dur = s.dur := rfl
@[simp] theorem State.setBinding_sigbuf (p : Option PinNo) (c : Option ChNo) (d : Option (BitVec 8)) (s : State) : (s.setBinding p c d).sigbuf = s.sigbuf := rfl
@[simp] theorem State.setBinding_rsp (p : Option PinNo) (c : Option ChNo) (d : Option (BitVec 8)) (s : State) : (s.setBinding p c d).rsp = s.rsp := rfl
@[simp] theorem State.setBinding_relReq (p : Option PinNo) (c : Option ChNo) (d : Option (BitVec 8)) (s : State) : (s.setBinding p c d).relReq = s.relReq := rfl
@[simp] theorem State.setBinding_ports (p : Option PinNo) (c : Option ChNo) (d : Option (BitVec 8)) (s : State) : (s.setBinding p c d).ports = s.ports := rfl
@[simp] theorem State.setBinding_script (p : Option PinNo) (c : Option ChNo) (d : Option (BitVec 8)) (s : State) : (s.setBinding p c d).script = s.script := rfl
@[simp] theorem State.setBinding_tick (p : Option PinNo) (c : Option ChNo) (d : Option (BitVec 8)) (s : State) : (s.setBinding p c d).tick = s.tick := rfl
@[simp] theorem State.setBinding_trace (p : Option PinNo) (c : Option ChNo) (d : Option (BitVec 8)) (s : State) : (s.setBinding p c d).trace = s.trace := rfl

/-! State.applyReset -/

@[simp] theorem State.applyReset_params (s : State) : s.applyReset.params = s.params := rfl
@[simp] theorem State.applyReset_bound (s : State) : s.applyReset.bound = false := rfl
@[simp] theorem State.applyReset_pin (s : State) : s.applyReset.pin = none := rfl
@[simp] theorem State.applyReset_ch (s : State) : s.applyReset.ch = none := rfl
@[simp] theorem State.applyReset_div (s : State) : s.applyReset.div = none := rfl
@[simp] theorem State.applyReset_phase (s : State) : s.applyReset.phase = Phase.idle := rfl
@[simp] theorem State.applyReset_idx (s : State) : s.applyReset.idx = none := rfl
@[simp] theorem State.applyReset_done (s : State) : s.applyReset.done = false := rfl
@[simp] theorem State.applyReset_err (s : State) : s.applyReset.err = false := rfl
@[simp] theorem State.applyReset_cause (s : State) : s.applyReset.cause = Cause.none := rfl
@[simp] theorem State.applyReset_pixl (s : State) : s.applyReset.pixl = [] := rfl
@[simp] theorem State.applyReset_freq (s : State) : s.applyReset.freq = none := rfl
@[simp] theorem State.applyReset_dur (s : State) : s.applyReset.dur = DurFile.empty := rfl
@[simp] theorem State.applyReset_sigbuf (s : State) : s.applyReset.sigbuf = [] := rfl
@[simp] theorem State.applyReset_rsp (s : State) : s.applyReset.rsp = none := rfl
@[simp] theorem State.applyReset_relReq (s : State) : s.applyReset.relReq = false := rfl
@[simp] theorem State.applyReset_ports (s : State) : s.applyReset.ports = s.ports := rfl
@[simp] theorem State.applyReset_script (s : State) : s.applyReset.script = s.script := rfl
@[simp] theorem State.applyReset_tick (s : State) : s.applyReset.tick = s.tick := rfl
@[simp] theorem State.applyReset_trace (s : State) : s.applyReset.trace = s.trace ++ s.inFlight := rfl

/-! State.nextInputs: only the input ports, the script and the counter move -/

@[simp] theorem State.nextInputs_params (s : State) : s.nextInputs.params = s.params := by
  unfold State.nextInputs; split <;> rfl
@[simp] theorem State.nextInputs_bound (s : State) : s.nextInputs.bound = s.bound := by
  unfold State.nextInputs; split <;> rfl
@[simp] theorem State.nextInputs_pin (s : State) : s.nextInputs.pin = s.pin := by
  unfold State.nextInputs; split <;> rfl
@[simp] theorem State.nextInputs_ch (s : State) : s.nextInputs.ch = s.ch := by
  unfold State.nextInputs; split <;> rfl
@[simp] theorem State.nextInputs_div (s : State) : s.nextInputs.div = s.div := by
  unfold State.nextInputs; split <;> rfl
@[simp] theorem State.nextInputs_phase (s : State) : s.nextInputs.phase = s.phase := by
  unfold State.nextInputs; split <;> rfl
@[simp] theorem State.nextInputs_idx (s : State) : s.nextInputs.idx = s.idx := by
  unfold State.nextInputs; split <;> rfl
@[simp] theorem State.nextInputs_done (s : State) : s.nextInputs.done = s.done := by
  unfold State.nextInputs; split <;> rfl
@[simp] theorem State.nextInputs_err (s : State) : s.nextInputs.err = s.err := by
  unfold State.nextInputs; split <;> rfl
@[simp] theorem State.nextInputs_cause (s : State) : s.nextInputs.cause = s.cause := by
  unfold State.nextInputs; split <;> rfl
@[simp] theorem State.nextInputs_pixl (s : State) : s.nextInputs.pixl = s.pixl := by
  unfold State.nextInputs; split <;> rfl
@[simp] theorem State.nextInputs_freq (s : State) : s.nextInputs.freq = s.freq := by
  unfold State.nextInputs; split <;> rfl
@[simp] theorem State.nextInputs_dur (s : State) : s.nextInputs.dur = s.dur := by
  unfold State.nextInputs; split <;> rfl
@[simp] theorem State.nextInputs_sigbuf (s : State) : s.nextInputs.sigbuf = s.sigbuf := by
  unfold State.nextInputs; split <;> rfl
@[simp] theorem State.nextInputs_rsp (s : State) : s.nextInputs.rsp = s.rsp := by
  unfold State.nextInputs; split <;> rfl
@[simp] theorem State.nextInputs_relReq (s : State) : s.nextInputs.relReq = s.relReq := by
  unfold State.nextInputs; split <;> rfl
@[simp] theorem State.nextInputs_trace (s : State) : s.nextInputs.trace = s.trace := by
  unfold State.nextInputs; split <;> rfl
@[simp] theorem State.nextInputs_tick (s : State) : s.nextInputs.tick = s.tick + 1 := by
  unfold State.nextInputs; split <;> rfl
theorem State.nextInputs_of_cons {s : State} {i : Inputs} {is : List Inputs} (h : s.script = i :: is) :
    s.nextInputs = { s with ports := i, script := is, tick := s.tick + 1 } := by
  unfold State.nextInputs; rw [h]
theorem State.nextInputs_of_nil {s : State} (h : s.script = []) :
    s.nextInputs = { s with ports := Config.freeInputs s.tick, tick := s.tick + 1 } := by
  unfold State.nextInputs; rw [h]

/-! State.goto -/

@[simp] theorem State.goto_params (p : Phase) (s : State) : (s.goto p).params = s.params := rfl
@[simp] theorem State.goto_bound (p : Phase) (s : State) : (s.goto p).bound = s.bound := rfl
@[simp] theorem State.goto_pin (p : Phase) (s : State) : (s.goto p).pin = s.pin := rfl
@[simp] theorem State.goto_ch (p : Phase) (s : State) : (s.goto p).ch = s.ch := rfl
@[simp] theorem State.goto_div (p : Phase) (s : State) : (s.goto p).div = s.div := rfl
@[simp] theorem State.goto_phase (p : Phase) (s : State) : (s.goto p).phase = p := rfl
@[simp] theorem State.goto_idx (p : Phase) (s : State) : (s.goto p).idx = s.idx := rfl
@[simp] theorem State.goto_done (p : Phase) (s : State) : (s.goto p).done = s.done := rfl
@[simp] theorem State.goto_err (p : Phase) (s : State) : (s.goto p).err = s.err := rfl
@[simp] theorem State.goto_cause (p : Phase) (s : State) : (s.goto p).cause = s.cause := rfl
@[simp] theorem State.goto_pixl (p : Phase) (s : State) : (s.goto p).pixl = s.pixl := rfl
@[simp] theorem State.goto_freq (p : Phase) (s : State) : (s.goto p).freq = s.freq := rfl
@[simp] theorem State.goto_dur (p : Phase) (s : State) : (s.goto p).dur = s.dur := rfl
@[simp] theorem State.goto_sigbuf (p : Phase) (s : State) : (s.goto p).sigbuf = s.sigbuf := rfl
@[simp] theorem State.goto_rsp (p : Phase) (s : State) : (s.goto p).rsp = s.rsp := rfl
@[simp] theorem State.goto_relReq (p : Phase) (s : State) : (s.goto p).relReq = s.relReq := rfl
@[simp] theorem State.goto_ports (p : Phase) (s : State) : (s.goto p).ports = s.ports := rfl
@[simp] theorem State.goto_script (p : Phase) (s : State) : (s.goto p).script = s.script := rfl
@[simp] theorem State.goto_tick (p : Phase) (s : State) : (s.goto p).tick = s.tick := rfl
@[simp] theorem State.goto_trace (p : Phase) (s : State) : (s.goto p).trace = s.trace := rfl

/-! State.ended -/

@[simp] theorem State.ended_params (e : Bool) (c : Cause) (s : State) : (s.ended e c).params = s.params := rfl
@[simp] theorem State.ended_bound (e : Bool) (c : Cause) (s : State) : (s.ended e c).bound = s.bound := rfl
@[simp] theorem State.ended_pin (e : Bool) (c : Cause) (s : State) : (s.ended e c).pin = s.pin := rfl
@[simp] theorem State.ended_ch (e : Bool) (c : Cause) (s : State) : (s.ended e c).ch = s.ch := rfl
@[simp] theorem State.ended_div (e : Bool) (c : Cause) (s : State) : (s.ended e c).div = s.div := rfl
@[simp] theorem State.ended_phase (e : Bool) (c : Cause) (s : State) : (s.ended e c).phase = Phase.idle := rfl
@[simp] theorem State.ended_idx (e : Bool) (c : Cause) (s : State) : (s.ended e c).idx = none := rfl
@[simp] theorem State.ended_done (e : Bool) (c : Cause) (s : State) : (s.ended e c).done = true := rfl
@[simp] theorem State.ended_err (e : Bool) (c : Cause) (s : State) : (s.ended e c).err = e := rfl
@[simp] theorem State.ended_cause (e : Bool) (c : Cause) (s : State) : (s.ended e c).cause = c := rfl
@[simp] theorem State.ended_pixl (e : Bool) (c : Cause) (s : State) : (s.ended e c).pixl = [] := rfl
@[simp] theorem State.ended_freq (e : Bool) (c : Cause) (s : State) : (s.ended e c).freq = none := rfl
@[simp] theorem State.ended_dur (e : Bool) (c : Cause) (s : State) : (s.ended e c).dur = DurFile.empty := rfl
@[simp] theorem State.ended_sigbuf (e : Bool) (c : Cause) (s : State) : (s.ended e c).sigbuf = [] := rfl
@[simp] theorem State.ended_rsp (e : Bool) (c : Cause) (s : State) : (s.ended e c).rsp = some ⟨e, c⟩ := rfl
@[simp] theorem State.ended_relReq (e : Bool) (c : Cause) (s : State) : (s.ended e c).relReq = s.relReq := rfl
@[simp] theorem State.ended_ports (e : Bool) (c : Cause) (s : State) : (s.ended e c).ports = s.ports := rfl
@[simp] theorem State.ended_script (e : Bool) (c : Cause) (s : State) : (s.ended e c).script = s.script := rfl
@[simp] theorem State.ended_tick (e : Bool) (c : Cause) (s : State) : (s.ended e c).tick = s.tick := rfl
@[simp] theorem State.ended_trace (e : Bool) (c : Cause) (s : State) : (s.ended e c).trace = s.trace := rfl

/-- A completion is the list of writes of R179 and R180. -/
theorem discard_setResult (e : Bool) (c : Cause) (s : State) : s.discard.setResult e c = s.ended e c := rfl

end Sys2Proof.Machine
end

