-- ==== Sys2Proof/Laws/Ops.lean ====
section
/-! SUPPORT. What each shared operation and each meaning can answer, said once: if it answers a next state, then one of the
listed cases holds. -/

namespace Sys2Proof.Machine

/-! ### Shared operations -/

theorem need_next {α : Type} {r : Reg} {v : Option α} {k : α → Result} {t : State} (h : need r v k = .next t) :
    ∃ x, v = some x ∧ k x = .next t := by
  cases v with
  | none => cases h
  | some x => exact ⟨x, rfl, h⟩

@[simp] theorem need_some {α : Type} (r : Reg) (x : α) (k : α → Result) : need r (some x) k = k x := rfl

theorem accept_idle {s : State} (h : s.phase = .idle) (k : State → Result) : accept s k = k s.quiet.clearFlags := if_pos h

theorem accept_next {s t : State} {k : State → Result} (h : accept s k = .next t) :
    (s.phase = .idle ∧ k s.quiet.clearFlags = .next t) ∨ (s.phase ≠ .idle ∧ t = s) := by
  unfold accept at h
  split at h
  · exact .inl ⟨‹_›, h⟩
  · cases h; exact .inr ⟨‹_›, rfl⟩

theorem inPhase_eq {p : Phase} {s : State} (h : s.phase = p) (k : State → Result) : inPhase p s k = k s.quiet := if_pos h

theorem inPhase_next {p : Phase} {s t : State} {k : State → Result} (h : inPhase p s k = .next t) :
    s.phase = p ∧ k s.quiet = .next t := by
  unfold inPhase at h
  split at h
  · exact ⟨‹_›, h⟩
  · cases h

@[simp] theorem quiet_slots (s : State) : s.quiet.slots = s.slots := rfl

/-! ### Commands -/

theorem execNop_next {s t : State} (h : execNop s = .next t) :
    (s.phase = .idle ∧ t = s.quiet.clearFlags.ended false .none) ∨ (s.phase ≠ .idle ∧ t = s) :=
  (accept_next h).imp_left fun ⟨hp, h⟩ => ⟨hp, by cases h; rfl⟩

theorem execInit_next {pinf : PinField} {chf : ChField} {s t : State} (h : execInit pinf chf s = .next t) :
    (s.phase = .idle ∧ s.bound = true ∧ t = s.quiet.clearFlags.ended true .claim) ∨
    (s.phase = .idle ∧ s.bound = false ∧
      t = (s.quiet.clearFlags.setBinding (some (s.pinOf pinf)) (some (s.chOf chf)) (some Config.divRef)).goto .claim) ∨
    (s.phase ≠ .idle ∧ t = s) := by
  rcases accept_next h with ⟨hp, h⟩ | h
  · cases hb : s.bound
    · simp only [State.clearFlags_bound, State.quiet_bound, hb] at h
      cases h; exact .inr (.inl ⟨hp, rfl, rfl⟩)
    · simp [hb, raise, discard_setResult] at h; exact .inl ⟨hp, rfl, h.symm⟩
  · exact .inr (.inr h)

theorem execTransmit_next {px : PixelOperand} {s t : State} (h : execTransmit px s = .next t) :
    (s.phase = .idle ∧ px.n = s.params.nPixels ∧ s.bound = false ∧ t = s.quiet.clearFlags.ended true .notBound) ∨
    (s.phase = .idle ∧ px.n = s.params.nPixels ∧ s.bound = true ∧
      t = { s.quiet.clearFlags with pixl := Memory.ofList 0 px.colours.toList, phase := .qfreq }) ∨
    (s.phase ≠ .idle ∧ t = s) := by
  rcases accept_next h with ⟨hp, h⟩ | h
  · split at h
    · cases h
    · rename_i hl
      simp only [State.clearFlags_params, State.quiet_params, ne_eq, Decidable.not_not] at hl
      split at h
      · rename_i hb; cases h; exact .inr (.inl ⟨hp, hl, hb, rfl⟩)
      · rename_i hb; cases h; exact .inl ⟨hp, hl, by simpa using hb, rfl⟩
  · exact .inr (.inr h)

theorem execRelease_next {s t : State} (h : execRelease s = .next t) :
    (s.phase = .idle ∧ s.bound = false ∧ t = s.quiet.clearFlags.ended true .notBound) ∨
    (s.phase = .idle ∧ s.bound = true ∧ ∃ pin ch, s.pin = some pin ∧ s.ch = some ch ∧
      t = State.ended false .none
        { (s.quiet.clearFlags.log [.release pin ch]).setBinding none none none with bound := false, relReq := true }) ∨
    (s.phase ≠ .idle ∧ t = s) := by
  rcases accept_next h with ⟨hp, h⟩ | h
  · cases hb : s.bound
    · simp [hb, raise, discard_setResult] at h; exact .inl ⟨hp, rfl, h.symm⟩
    · simp only [State.clearFlags_bound, State.quiet_bound, hb, if_true] at h
      obtain ⟨pin, h1, h⟩ := need_next h
      obtain ⟨ch, h2, h⟩ := need_next h
      cases h
      exact .inr (.inl ⟨hp, rfl, pin, ch, h1, h2, rfl⟩)
  · exact .inr (.inr h)

/-! ### Data-bit symbols -/

theorem selectPair_next {b : Bool} {s t : State} {k : Pair → Result} (h : selectPair b s k = .next t) :
    ∃ hi lo, (if b then s.dur.t1h else s.dur.t0h) = some hi ∧ (if b then s.dur.t1l else s.dur.t0l) = some lo ∧
      k (mkPair hi lo) = .next t := by
  cases b <;>
  · simp only [selectPair, Bool.false_eq_true, if_true, if_false] at h
    obtain ⟨hi, h1, h⟩ := need_next h
    obtain ⟨lo, h2, h⟩ := need_next h
    exact ⟨hi, lo, by simpa using h1, by simpa using h2, h⟩

theorem fillSymbol_next {b : Bool} {s t : State} (h : fillSymbol b s = .next t) :
    s.phase = .fill ∧ ∃ i hi lo, s.idx = some i ∧
      (if b then s.dur.t1h else s.dur.t0h) = some hi ∧ (if b then s.dur.t1l else s.dur.t0l) = some lo ∧
      ((wpos i < s.slots ∧
          t = { s.quiet with sigbuf := Memory.write s.sigbuf (wpos i) (mkPair hi lo), idx := some (i + 1) }) ∨
        (s.slots ≤ wpos i ∧ t = s.quiet.ended true .index)) := by
  obtain ⟨hp, h⟩ := inPhase_next h
  obtain ⟨i, hi, h⟩ := need_next h
  obtain ⟨a, b', h1, h2, h⟩ := selectPair_next h
  refine ⟨hp, i, a, b', hi, h1, h2, ?_⟩
  unfold wslot at h
  split at h
  · cases h; exact .inr ⟨‹_›, rfl⟩
  · cases h; exact .inl ⟨by simp only [quiet_slots] at *; omega, rfl⟩

/-- The completing form of a data-bit symbol. -/
theorem fillSymbol_eq {b : Bool} {s : State} {i hi lo : Nat} (hp : s.phase = .fill) (hidx : s.idx = some i)
    (hh : (if b then s.dur.t1h else s.dur.t0h) = some hi) (hl : (if b then s.dur.t1l else s.dur.t0l) = some lo)
    (hw : wpos i < s.slots) :
    fillSymbol b s =
      .next { s.quiet with sigbuf := Memory.write s.sigbuf (wpos i) (mkPair hi lo), idx := some (i + 1) } := by
  have hw' : ¬ s.quiet.slots ≤ wpos i := by simp only [quiet_slots]; omega
  unfold fillSymbol
  rw [inPhase_eq hp]
  cases b <;> simp_all [selectPair, wslot]

/-! ### Phases -/

theorem execIdle_next {s t : State} (h : execIdle s = .next t) :
    s.phase = .idle ∧ ((s.ports.cmdValid = false ∧ t = s.quiet) ∨ (s.ports.cmdValid = true ∧
      runCommand (decodeCommand s.params.nPixels s.ports.cmdWord s.ports.pixData) s.quiet = .next t)) := by
  obtain ⟨hp, h⟩ := inPhase_next h
  refine ⟨hp, ?_⟩
  cases hv : s.ports.cmdValid
  · simp [hv] at h; exact .inl ⟨rfl, h.symm⟩
  · simp [hv] at h; exact .inr ⟨rfl, h⟩

theorem execClaim_next {s t : State} (h : execClaim s = .next t) :
    s.phase = .claim ∧ ((claimAnswer s.ports = none ∧ t = s.quiet) ∨
      ∃ a pin ch div, claimAnswer s.ports = some a ∧ s.pin = some pin ∧ s.ch = some ch ∧ s.div = some div ∧
        ((a = .ok ∧ t = State.ended false .none { s.quiet.log [.claim pin ch div, .claimAns a] with bound := true }) ∨
         (a = .err ∧ t = State.ended true .claim
            ((s.quiet.log [.claim pin ch div, .claimAns a]).setBinding none none none)))) := by
  obtain ⟨hp, h⟩ := inPhase_next h
  refine ⟨hp, ?_⟩
  simp only [State.quiet_ports] at h
  split at h
  · cases h; exact .inl ⟨‹_›, rfl⟩
  · rename_i a ha
    obtain ⟨pin, h1, h⟩ := need_next h
    obtain ⟨ch, h2, h⟩ := need_next h
    obtain ⟨div, h3, h⟩ := need_next h
    refine .inr ⟨a, pin, ch, div, ha, h1, h2, h3, ?_⟩
    cases a <;> cases h
    · exact .inl ⟨rfl, rfl⟩
    · exact .inr ⟨rfl, rfl⟩

theorem execQfreq_next {s t : State} (h : execQfreq s = .next t) :
    s.phase = .qfreq ∧ ((freqAnswer s.params.freqW s.ports = none ∧ t = s.quiet) ∨
      (∃ f, freqAnswer s.params.freqW s.ports = some (.ok f) ∧
        t = { s.quiet.log [.freqQuery, .freqAns (.ok f)] with freq := some f, phase := .conv }) ∨
      (freqAnswer s.params.freqW s.ports = some .err ∧
        t = (s.quiet.log [.freqQuery, .freqAns .err]).ended true .freq)) := by
  obtain ⟨hp, h⟩ := inPhase_next h
  refine ⟨hp, ?_⟩
  simp only [State.quiet_ports, State.quiet_params] at h
  split at h
  · cases h; exact .inl ⟨‹_›, rfl⟩
  · rename_i a ha
    cases a with
    | ok f => cases h; exact .inr (.inl ⟨f, ha, rfl⟩)
    | err => cases h; exact .inr (.inr ⟨ha, rfl⟩)

theorem execConv_next {s t : State} (h : execConv s = .next t) :
    s.phase = .conv ∧ ∃ f, s.freq = some f ∧
      ((∃ d, durations s.params.tickMax f = some d ∧
          t = { s.quiet with dur := DurFile.ofDurations d, idx := some 0, phase := .fill }) ∨
        (durations s.params.tickMax f = none ∧ t = s.quiet.ended true .conv)) := by
  obtain ⟨hp, h⟩ := inPhase_next h
  obtain ⟨f, hf, h⟩ := need_next h
  refine ⟨hp, f, hf, ?_⟩
  simp only [State.quiet_params] at h
  split at h
  · rename_i d hd; cases h; exact .inl ⟨d, hd, rfl⟩
  · rename_i hd; cases h; exact .inr ⟨hd, rfl⟩

theorem execFill_next {s t : State} (h : execFill s = .next t) :
    s.phase = .fill ∧ ∃ i, s.idx = some i ∧
      ((i < s.slots ∧ ∃ byte, byteSel s.pixl (walkByte i) = some byte ∧
          fillSymbol (xbit byte (walkBit i)) s.quiet = .next t) ∨
        (i = s.slots ∧ t = { s.quiet with idx := none, phase := .submit })) := by
  obtain ⟨hp, h⟩ := inPhase_next h
  obtain ⟨i, hi, h⟩ := need_next h
  refine ⟨hp, i, hi, ?_⟩
  split at h
  · obtain ⟨byte, hb, h⟩ := need_next h
    refine .inl ⟨‹_›, byte, hb, ?_⟩
    split at h
    · rename_i hx
      exact (congrArg (fillSymbol · s.quiet) hx).trans h
    · rename_i hx
      exact (congrArg (fillSymbol · s.quiet) (Bool.eq_false_iff.2 hx)).trans h
  · split at h
    · cases h; exact .inr ⟨‹_›, rfl⟩
    · cases h

theorem execSubmit_next {s t : State} (h : execSubmit s = .next t) :
    s.phase = .submit ∧ ((startAnswer s.tick s.ports = none ∧ t = s.quiet) ∨
      ∃ a buf, startAnswer s.tick s.ports = some a ∧ Memory.readRange s.sigbuf 0 s.slots = some buf ∧
        ((a = .ok ∧ t = (s.quiet.log [.start buf, .startAns a]).goto .emit) ∨
         (a = .err ∧ t = (s.quiet.log [.start buf, .startAns a]).ended true .txStart))) := by
  obtain ⟨hp, h⟩ := inPhase_next h
  refine ⟨hp, ?_⟩
  simp only [State.quiet_ports, State.quiet_tick, State.quiet_sigbuf, quiet_slots] at h
  split at h
  · cases h; exact .inl ⟨‹_›, rfl⟩
  · rename_i a ha
    obtain ⟨buf, hb, h⟩ := need_next h
    refine .inr ⟨a, buf, ha, hb, ?_⟩
    cases a <;> cases h
    · exact .inl ⟨rfl, rfl⟩
    · exact .inr ⟨rfl, rfl⟩

theorem execEmit_next {s t : State} (h : execEmit s = .next t) :
    s.phase = .emit ∧ ((doneAnswer s.ports = none ∧ t = s.quiet) ∨
      (doneAnswer s.ports = some .ok ∧ t = (s.quiet.log [.doneAns .ok]).ended false .none) ∨
      (doneAnswer s.ports = some .err ∧ t = (s.quiet.log [.doneAns .err]).ended true .txFault)) := by
  obtain ⟨hp, h⟩ := inPhase_next h
  refine ⟨hp, ?_⟩
  simp only [State.quiet_ports] at h
  split at h
  · cases h; exact .inl ⟨‹_›, rfl⟩
  · rename_i a ha
    cases a <;> cases h
    · exact .inr (.inl ⟨ha, rfl⟩)
    · exact .inr (.inr ⟨ha, rfl⟩)

/-! ### The step -/

/-- Every code a step fetches has an instruction. -/
theorem decode_phase (n : Nat) (p : Phase) : decode n (.phase p.code) = .ok p.toInstr := by cases p <;> rfl

/-- What a step answers: the reset, or the instruction it decodes, and then the next values of the input ports. -/
theorem step_next {s t : State} (h : step s = .next t) :
    (s.ports.rst = true ∧ t = s.applyReset.nextInputs) ∨
    (s.ports.rst = false ∧ ∃ i u, decode s.params.nPixels (fetch s) = .ok i ∧ exec i s = .next u ∧ t = u.nextInputs) := by
  unfold step at h
  split at h
  · cases h; exact .inl ⟨‹_›, rfl⟩
  · rename_i hr
    refine .inr ⟨by simpa using hr, ?_⟩
    split at h
    · rename_i i hi
      unfold afterExec at h
      split at h
      · rename_i u hu; cases h; exact ⟨i, u, hi, hu, rfl⟩
      · cases h
      · cases h
    · cases h

/-- The same by phase: what a step without rst does is the step of its phase. -/
theorem step_eq_phase {s : State} (h : s.ports.rst = false) (hv : s.phase = .idle → s.ports.cmdValid = false) :
    step s = afterExec (exec s.phase.toInstr s) := by
  have hf : fetch s = .phase s.phase.code := by
    unfold fetch
    rw [if_neg]
    rintro ⟨h1, h2⟩
    simp [hv h1] at h2
  unfold step
  simp [h, hf, decode_phase]

/-- What a step answers, by phase: the reset; nothing in an idle block without a command; else the command on the port or the
phase's own row; and then the next values of the input ports. -/
theorem step_phase {s t : State} (h : step s = .next t) :
    (s.ports.rst = true ∧ t = s.applyReset.nextInputs) ∨ (s.ports.rst = false ∧ ∃ u, t = u.nextInputs ∧
      ((s.phase = .idle ∧ s.ports.cmdValid = false ∧ u = s.quiet) ∨
       (s.phase = .idle ∧ s.ports.cmdValid = true ∧
          exec (decodeCommand s.params.nPixels s.ports.cmdWord s.ports.pixData).toInstr s = .next u) ∨
       (s.phase ≠ .idle ∧ exec s.phase.toInstr s = .next u))) := by
  rcases step_next h with ⟨hr, rfl⟩ | ⟨hr, i, u, hd, hu, rfl⟩
  · exact .inl ⟨hr, rfl⟩
  · refine .inr ⟨hr, u, rfl, ?_⟩
    by_cases hp : s.phase = .idle
    · cases hv : s.ports.cmdValid
      · have hf : fetch s = .phase s.phase.code := by unfold fetch; rw [if_neg]; simp [hv]
        rw [hf, decode_phase, hp] at hd
        cases hd
        rcases execIdle_next hu with ⟨-, ⟨-, h⟩ | ⟨hv', -⟩⟩
        · exact .inl ⟨hp, rfl, h⟩
        · rw [hv] at hv'; cases hv'
      · have hf : fetch s = .command s.ports.cmdWord s.ports.pixData := by unfold fetch; rw [if_pos ⟨hp, hv⟩]
        rw [hf] at hd
        cases hd
        exact .inr (.inl ⟨hp, rfl, hu⟩)
    · have hf : fetch s = .phase s.phase.code := by unfold fetch; rw [if_neg]; exact fun h => hp h.1
      rw [hf, decode_phase] at hd
      cases hd
      exact .inr (.inr ⟨hp, hu⟩)

/-- The same as one case for each row of R104. -/
theorem step_rows {s t : State} (h : step s = .next t) :
    (s.ports.rst = true ∧ t = s.applyReset.nextInputs) ∨ (s.ports.rst = false ∧ ∃ u, t = u.nextInputs ∧
      ((s.phase = .idle ∧ s.ports.cmdValid = false ∧ u = s.quiet) ∨
       (s.phase = .idle ∧ s.ports.cmdValid = true ∧
          exec (decodeCommand s.params.nPixels s.ports.cmdWord s.ports.pixData).toInstr s = .next u) ∨
       (s.phase = .claim ∧ execClaim s = .next u) ∨ (s.phase = .qfreq ∧ execQfreq s = .next u) ∨
       (s.phase = .conv ∧ execConv s = .next u) ∨ (s.phase = .fill ∧ execFill s = .next u) ∨
       (s.phase = .submit ∧ execSubmit s = .next u) ∨ (s.phase = .emit ∧ execEmit s = .next u))) := by
  rcases step_phase h with h | ⟨hr, u, ht, h | h | ⟨hp, h⟩⟩
  · exact .inl h
  · exact .inr ⟨hr, u, ht, .inl h⟩
  · exact .inr ⟨hr, u, ht, .inr (.inl h)⟩
  · refine .inr ⟨hr, u, ht, .inr (.inr ?_)⟩
    cases hq : s.phase <;> rw [hq] at h hp
    · exact absurd rfl hp
    · exact .inl ⟨rfl, h⟩
    · exact .inr (.inl ⟨rfl, h⟩)
    · exact .inr (.inr (.inl ⟨rfl, h⟩))
    · exact .inr (.inr (.inr (.inl ⟨rfl, h⟩)))
    · exact .inr (.inr (.inr (.inr (.inl ⟨rfl, h⟩))))
    · exact .inr (.inr (.inr (.inr (.inr ⟨rfl, h⟩))))
end Sys2Proof.Machine
end

