-- ==== Sys2Proof/Laws/PerInstr.lean ====
section
/-! SUPPORT. A law for each row of the opcode table. -/

namespace Sys2Proof.Laws.TableRow

/-- The words of an instruction match the table's own row of it (30_encoding.md R87). -/
def Statement (i : Instr) : Prop := i.row.matches (encode i) = true

theorem nop : Statement .nop := by unfold Statement; decide
theorem init (pin : PinField) (ch : ChField) : Statement (.init pin ch) := by
  have h : ((0#4 ++ ch ++ pin ++ 1#2 : BitVec 16)).toNat % 4 = 1 := by
    have e : ((0#4 ++ ch ++ pin : BitVec 14) ++ 1#2).toNat = (0#4 ++ ch ++ pin : BitVec 14).toNat * 4 + 1 := by
      rw [BitVec.toNat_append, Nat.shiftLeft_eq, Nat.mul_comm, ← Nat.two_pow_add_eq_or_of_lt (1#2 : BitVec 2).isLt]
      simp
    omega
  have m : ((0#4 ++ ch ++ pin ++ 1#2 : BitVec 16)).toNat &&& 3 = 1 := by
    rw [show (3 : Nat) = 2 ^ 2 - 1 from rfl, Nat.and_two_pow_sub_one_eq_mod]; exact h
  show (0 == 0 && ((0#4 ++ ch ++ pin ++ 1#2 : BitVec 16).toNat &&& 3) == 1) = true
  rw [m]
  rfl
theorem transmit (pixels : PixelOperand) : Statement (.transmit pixels) := by
  show (0 == 0 && ((0x0002#16).toNat &&& 3) == 2) = true
  rfl
theorem release : Statement .release := by unfold Statement; decide
theorem sym0 : Statement .sym0 := by unfold Statement; decide
theorem sym1 : Statement .sym1 := by unfold Statement; decide
theorem idle : Statement .idle := by unfold Statement; decide
theorem claim : Statement .claim := by unfold Statement; decide
theorem qfreq : Statement .qfreq := by unfold Statement; decide
theorem conv : Statement .conv := by unfold Statement; decide
theorem fill : Statement .fill := by unfold Statement; decide
theorem submit : Statement .submit := by unfold Statement; decide
theorem emit : Statement .emit := by unfold Statement; decide

end Sys2Proof.Laws.TableRow
end

