-- ==== Sys2Proof/Laws/Pulse.lean ====
section
/-! SUPPORT. The specification of `durations`, of DUR's round trip through the duration record, and of the answers on the ports. -/

namespace Sys2Proof.Machine

/-- The range check of R114 on one duration record. -/
def Durations.InRange (m : Nat) (d : Durations) : Prop :=
  (0 < d.t0h ∧ d.t0h ≤ m) ∧ (0 < d.t0l ∧ d.t0l ≤ m) ∧ (0 < d.t1h ∧ d.t1h ≤ m) ∧ (0 < d.t1l ∧ d.t1l ≤ m)

theorem everyDuration_inRange {m : Nat} {d : Durations} :
    everyDuration d (fun t => decide (0 < t ∧ t ≤ m)) = true ↔ Durations.InRange m d := by
  simp only [everyDuration, Durations.InRange, Bool.and_eq_true, decide_eq_true_eq]; tauto

theorem durations_eq_some {m f : Nat} {d : Durations} :
    durations m f = some d ↔ d = rawDurations f ∧ Durations.InRange m d := by
  unfold durations checkDurations
  split
  · rename_i hc
    have hr := everyDuration_inRange.1 hc
    exact ⟨fun h => by cases h; exact ⟨rfl, hr⟩, fun h => congrArg some h.1.symm⟩
  · rename_i hc
    refine ⟨fun h => (nomatch h), fun h => absurd (everyDuration_inRange.2 ?_) hc⟩
    exact h.1 ▸ h.2

theorem durations_eq_none {m f : Nat} : durations m f = none ↔ ¬ Durations.InRange m (rawDurations f) := by
  rw [Option.eq_none_iff_forall_ne_some]
  constructor
  · intro h hr; exact h _ (durations_eq_some.2 ⟨rfl, hr⟩)
  · rintro h d hd; obtain ⟨rfl, hr⟩ := durations_eq_some.1 hd; exact h hr

@[simp] theorem values_ofDurations (d : Durations) : (DurFile.ofDurations d).values = d := rfl

theorem ofDurations_inj {d e : Durations} (h : DurFile.ofDurations d = DurFile.ofDurations e) : d = e :=
  congrArg DurFile.values h

theorem claimAnswer_eq_none {p : Inputs} : claimAnswer p = none ↔ p.claimAck = false := by
  unfold claimAnswer; cases p.claimAck <;> simp

theorem freqAnswer_eq_none {w : Nat} {p : Inputs} : freqAnswer w p = none ↔ p.freqAck = false := by
  unfold freqAnswer; cases p.freqAck <;> simp

theorem doneAnswer_eq_none {p : Inputs} : doneAnswer p = none ↔ p.txDone = false := by
  unfold doneAnswer; cases p.txDone <;> simp

theorem startAnswer_eq_none {n : Nat} {p : Inputs} : startAnswer n p = none ↔ p.txAck = false ∧ p.txNack = false := by
  unfold startAnswer; cases p.txAck <;> cases p.txNack <;> simp

theorem freqAnswer_ok {w f : Nat} {p : Inputs} (h : freqAnswer w p = some (.ok f)) : f < 2 ^ w := by
  unfold freqAnswer at h
  cases ha : p.freqAck <;> cases he : p.freqErr <;> simp [ha, he] at h
  exact h ▸ Nat.mod_lt _ (Nat.two_pow_pos w)

end Sys2Proof.Machine
end

