-- ==== Sys2Proof/Laws/Registers.lean ====
section
/-! SUPPORT. What a step shows decides nothing: the response, the release notice and the trace are read by no instruction and
no step (10_state.md R38), so the registers after a step are a function of the registers, the parameters and the inputs. -/

namespace Sys2Proof.Machine

/-- Two states that differ at most in what a step shows: the response, the release notice and the trace. -/
structure SameBlock (s t : State) : Prop where
  regs   : s.toRegisters = t.toRegisters
  params : s.params = t.params
  ports  : s.ports = t.ports
  script : s.script = t.script
  tick   : s.tick = t.tick

/-- Two answers that differ at most in that, or the same stop. -/
inductive SameAnswer : Result → Result → Prop where
  | next {s t : State} (h : SameBlock s t) : SameAnswer (.next s) (.next t)
  | fault (f : Fault) : SameAnswer (.fault f) (.fault f)
  | refused (r : Refusal) : SameAnswer (.refused r) (.refused r)

variable {s t : State}

theorem need_same {α : Type} {r : Reg} {v : Option α} {k l : α → Result} (h : ∀ x, SameAnswer (k x) (l x)) :
    SameAnswer (need r v k) (need r v l) := by
  cases v
  · exact .fault _
  · exact h _

theorem accept_same {k : State → Result} (hk : ∀ {s t}, SameBlock s t → SameAnswer (k s) (k t)) (h : SameBlock s t) :
    SameAnswer (accept s k) (accept t k) := by
  obtain ⟨r, prm, rs, rl, pt, sc, tk, tr⟩ := s; obtain ⟨r', prm', rs', rl', pt', sc', tk', tr'⟩ := t
  obtain ⟨h0, h1, h2, h3, h4⟩ := h; dsimp only at h0 h1 h2 h3 h4; subst h0 h1 h2 h3 h4
  unfold accept
  dsimp only
  split
  · exact hk ⟨rfl, rfl, rfl, rfl, rfl⟩
  · exact .next ⟨rfl, rfl, rfl, rfl, rfl⟩

theorem inPhase_same {p : Phase} {k : State → Result} (hk : ∀ {s t}, SameBlock s t → SameAnswer (k s) (k t))
    (h : SameBlock s t) : SameAnswer (inPhase p s k) (inPhase p t k) := by
  obtain ⟨r, prm, rs, rl, pt, sc, tk, tr⟩ := s; obtain ⟨r', prm', rs', rl', pt', sc', tk', tr'⟩ := t
  obtain ⟨h0, h1, h2, h3, h4⟩ := h; dsimp only at h0 h1 h2 h3 h4; subst h0 h1 h2 h3 h4
  unfold inPhase
  dsimp only
  split
  · exact hk ⟨rfl, rfl, rfl, rfl, rfl⟩
  · exact .fault _

theorem execNop_same (h : SameBlock s t) : SameAnswer (execNop s) (execNop t) := by
  refine accept_same (fun {s t} h => ?_) h
  obtain ⟨r, prm, rs, rl, pt, sc, tk, tr⟩ := s; obtain ⟨r', prm', rs', rl', pt', sc', tk', tr'⟩ := t
  obtain ⟨h0, h1, h2, h3, h4⟩ := h; dsimp only at h0 h1 h2 h3 h4; subst h0 h1 h2 h3 h4
  exact .next ⟨rfl, rfl, rfl, rfl, rfl⟩

theorem execInit_same (pinf : PinField) (chf : ChField) (h : SameBlock s t) : SameAnswer (execInit pinf chf s) (execInit pinf chf t) := by
  refine accept_same (fun {s t} h => ?_) h
  obtain ⟨r, prm, rs, rl, pt, sc, tk, tr⟩ := s; obtain ⟨r', prm', rs', rl', pt', sc', tk', tr'⟩ := t
  obtain ⟨h0, h1, h2, h3, h4⟩ := h; dsimp only at h0 h1 h2 h3 h4; subst h0 h1 h2 h3 h4
  dsimp only
  split <;> exact .next ⟨rfl, rfl, rfl, rfl, rfl⟩

theorem execTransmit_same (px : PixelOperand) (h : SameBlock s t) : SameAnswer (execTransmit px s) (execTransmit px t) := by
  refine accept_same (fun {s t} h => ?_) h
  obtain ⟨r, prm, rs, rl, pt, sc, tk, tr⟩ := s; obtain ⟨r', prm', rs', rl', pt', sc', tk', tr'⟩ := t
  obtain ⟨h0, h1, h2, h3, h4⟩ := h; dsimp only at h0 h1 h2 h3 h4; subst h0 h1 h2 h3 h4
  dsimp only
  split
  · exact .refused _
  · split <;> exact .next ⟨rfl, rfl, rfl, rfl, rfl⟩

theorem execRelease_same (h : SameBlock s t) : SameAnswer (execRelease s) (execRelease t) := by
  refine accept_same (fun {s t} h => ?_) h
  obtain ⟨r, prm, rs, rl, pt, sc, tk, tr⟩ := s; obtain ⟨r', prm', rs', rl', pt', sc', tk', tr'⟩ := t
  obtain ⟨h0, h1, h2, h3, h4⟩ := h; dsimp only at h0 h1 h2 h3 h4; subst h0 h1 h2 h3 h4
  dsimp only
  split
  · exact need_same fun _ => need_same fun _ => .next ⟨rfl, rfl, rfl, rfl, rfl⟩
  · exact .next ⟨rfl, rfl, rfl, rfl, rfl⟩

theorem fillSymbol_same (b : Bool) (h : SameBlock s t) : SameAnswer (fillSymbol b s) (fillSymbol b t) := by
  refine inPhase_same (fun {s t} h => ?_) h
  obtain ⟨r, prm, rs, rl, pt, sc, tk, tr⟩ := s; obtain ⟨r', prm', rs', rl', pt', sc', tk', tr'⟩ := t
  obtain ⟨h0, h1, h2, h3, h4⟩ := h; dsimp only at h0 h1 h2 h3 h4; subst h0 h1 h2 h3 h4
  refine need_same fun i => ?_
  unfold selectPair wslot State.slots
  split <;> refine need_same fun _ => need_same fun _ => ?_ <;> dsimp only <;> split <;> exact .next ⟨rfl, rfl, rfl, rfl, rfl⟩

theorem execIdle_same (h : SameBlock s t) : SameAnswer (execIdle s) (execIdle t) := by
  refine inPhase_same (fun {s t} h => ?_) h
  obtain ⟨r, prm, rs, rl, pt, sc, tk, tr⟩ := s; obtain ⟨r', prm', rs', rl', pt', sc', tk', tr'⟩ := t
  obtain ⟨h0, h1, h2, h3, h4⟩ := h; dsimp only at h0 h1 h2 h3 h4; subst h0 h1 h2 h3 h4
  dsimp only
  split
  · cases decodeCommand prm.nPixels pt.cmdWord pt.pixData
    · exact execNop_same ⟨rfl, rfl, rfl, rfl, rfl⟩
    · exact execInit_same _ _ ⟨rfl, rfl, rfl, rfl, rfl⟩
    · exact execTransmit_same _ ⟨rfl, rfl, rfl, rfl, rfl⟩
    · exact execRelease_same ⟨rfl, rfl, rfl, rfl, rfl⟩
  · exact .next ⟨rfl, rfl, rfl, rfl, rfl⟩

theorem execClaim_same (h : SameBlock s t) : SameAnswer (execClaim s) (execClaim t) := by
  refine inPhase_same (fun {s t} h => ?_) h
  obtain ⟨r, prm, rs, rl, pt, sc, tk, tr⟩ := s; obtain ⟨r', prm', rs', rl', pt', sc', tk', tr'⟩ := t
  obtain ⟨h0, h1, h2, h3, h4⟩ := h; dsimp only at h0 h1 h2 h3 h4; subst h0 h1 h2 h3 h4
  dsimp only
  split
  · exact .next ⟨rfl, rfl, rfl, rfl, rfl⟩
  · refine need_same fun _ => need_same fun _ => need_same fun _ => ?_
    split <;> exact .next ⟨rfl, rfl, rfl, rfl, rfl⟩

theorem execQfreq_same (h : SameBlock s t) : SameAnswer (execQfreq s) (execQfreq t) := by
  refine inPhase_same (fun {s t} h => ?_) h
  obtain ⟨r, prm, rs, rl, pt, sc, tk, tr⟩ := s; obtain ⟨r', prm', rs', rl', pt', sc', tk', tr'⟩ := t
  obtain ⟨h0, h1, h2, h3, h4⟩ := h; dsimp only at h0 h1 h2 h3 h4; subst h0 h1 h2 h3 h4
  dsimp only
  split
  · exact .next ⟨rfl, rfl, rfl, rfl, rfl⟩
  · split <;> exact .next ⟨rfl, rfl, rfl, rfl, rfl⟩

theorem execConv_same (h : SameBlock s t) : SameAnswer (execConv s) (execConv t) := by
  refine inPhase_same (fun {s t} h => ?_) h
  obtain ⟨r, prm, rs, rl, pt, sc, tk, tr⟩ := s; obtain ⟨r', prm', rs', rl', pt', sc', tk', tr'⟩ := t
  obtain ⟨h0, h1, h2, h3, h4⟩ := h; dsimp only at h0 h1 h2 h3 h4; subst h0 h1 h2 h3 h4
  refine need_same fun f => ?_
  dsimp only
  split <;> exact .next ⟨rfl, rfl, rfl, rfl, rfl⟩

theorem execFill_same (h : SameBlock s t) : SameAnswer (execFill s) (execFill t) := by
  refine inPhase_same (fun {s t} h => ?_) h
  obtain ⟨r, prm, rs, rl, pt, sc, tk, tr⟩ := s; obtain ⟨r', prm', rs', rl', pt', sc', tk', tr'⟩ := t
  obtain ⟨h0, h1, h2, h3, h4⟩ := h; dsimp only at h0 h1 h2 h3 h4; subst h0 h1 h2 h3 h4
  refine need_same fun i => ?_
  dsimp only [State.slots]
  by_cases hi : i < 24 * prm.nPixels
  · simp only [hi, if_true]
    refine need_same fun byte => ?_
    split
    · exact fillSymbol_same true ⟨rfl, rfl, rfl, rfl, rfl⟩
    · exact fillSymbol_same false ⟨rfl, rfl, rfl, rfl, rfl⟩
  · by_cases he : i = 24 * prm.nPixels
    · subst he; simp only [lt_irrefl, if_false, if_true]
      exact .next ⟨rfl, rfl, rfl, rfl, rfl⟩
    · simp only [hi, he, if_false]
      exact .fault _

theorem execSubmit_same (h : SameBlock s t) : SameAnswer (execSubmit s) (execSubmit t) := by
  refine inPhase_same (fun {s t} h => ?_) h
  obtain ⟨r, prm, rs, rl, pt, sc, tk, tr⟩ := s; obtain ⟨r', prm', rs', rl', pt', sc', tk', tr'⟩ := t
  obtain ⟨h0, h1, h2, h3, h4⟩ := h; dsimp only at h0 h1 h2 h3 h4; subst h0 h1 h2 h3 h4
  dsimp only [State.slots]
  split
  · exact .next ⟨rfl, rfl, rfl, rfl, rfl⟩
  · refine need_same fun buf => ?_
    split <;> exact .next ⟨rfl, rfl, rfl, rfl, rfl⟩

theorem execEmit_same (h : SameBlock s t) : SameAnswer (execEmit s) (execEmit t) := by
  refine inPhase_same (fun {s t} h => ?_) h
  obtain ⟨r, prm, rs, rl, pt, sc, tk, tr⟩ := s; obtain ⟨r', prm', rs', rl', pt', sc', tk', tr'⟩ := t
  obtain ⟨h0, h1, h2, h3, h4⟩ := h; dsimp only at h0 h1 h2 h3 h4; subst h0 h1 h2 h3 h4
  dsimp only
  split
  · exact .next ⟨rfl, rfl, rfl, rfl, rfl⟩
  · split <;> exact .next ⟨rfl, rfl, rfl, rfl, rfl⟩

/-- No instruction reads the response, the release notice or the trace. -/
theorem exec_same (i : Instr) (h : SameBlock s t) : SameAnswer (exec i s) (exec i t) := by
  cases i
  case nop => exact execNop_same h
  case init => exact execInit_same _ _ h
  case transmit => exact execTransmit_same _ h
  case release => exact execRelease_same h
  case sym0 => exact fillSymbol_same false h
  case sym1 => exact fillSymbol_same true h
  case idle => exact execIdle_same h
  case claim => exact execClaim_same h
  case qfreq => exact execQfreq_same h
  case conv => exact execConv_same h
  case fill => exact execFill_same h
  case submit => exact execSubmit_same h
  case emit => exact execEmit_same h

theorem nextInputs_same (h : SameBlock s t) : SameBlock s.nextInputs t.nextInputs := by
  obtain ⟨r, prm, rs, rl, pt, sc, tk, tr⟩ := s; obtain ⟨r', prm', rs', rl', pt', sc', tk', tr'⟩ := t
  obtain ⟨h0, h1, h2, h3, h4⟩ := h; dsimp only at h0 h1 h2 h3 h4; subst h0 h1 h2 h3 h4
  cases sc <;> exact ⟨rfl, rfl, rfl, rfl, rfl⟩

theorem afterExec_same {a b : Result} (h : SameAnswer a b) : SameAnswer (afterExec a) (afterExec b) := by
  cases h
  · exact .next (nextInputs_same ‹_›)
  · exact .fault _
  · exact .refused _

/-- No step reads them (R38): its registers and its stop are a function of the registers, the parameters and the inputs. -/
theorem step_same (h : SameBlock s t) : SameAnswer (step s) (step t) := by
  have hx := fun i => afterExec_same (exec_same i h)
  obtain ⟨r, prm, rs, rl, pt, sc, tk, tr⟩ := s; obtain ⟨r', prm', rs', rl', pt', sc', tk', tr'⟩ := t
  obtain ⟨h0, h1, h2, h3, h4⟩ := h; dsimp only at h0 h1 h2 h3 h4; subst h0 h1 h2 h3 h4
  unfold step
  dsimp only [fetch] at hx ⊢
  split
  · exact .next (nextInputs_same ⟨rfl, rfl, rfl, rfl, rfl⟩)
  · generalize decode prm.nPixels _ = d
    cases d
    · exact .refused _
    · exact hx _

end Sys2Proof.Machine
end

