-- ==== Sys2Proof/Tests/Slice0.lean ====
section
/-! SUPPORT. Small tests: ill-formed terms, words written out from the spec's encodings, single steps from 95_test_vectors.md, and
for each statement with hypotheses a state and operands that meet them. -/

namespace Sys2Proof.Tests

open Sys2Proof Sys2Proof.Machine

/-! ### The states the tests start from: N = 1, 40 MHz, the pixel of V21 -/

def one : Params := { Params.reference with nPixels := 1 }
def col : Color := ⟨0x12, 0x34, 0x56⟩
def d40 : Durations := ⟨14, 32, 28, 24⟩
def fullBuf : List Pair := frame [col] d40

def unbound : State := State.resetWith one
def bound : State := { unbound with bound := true, pin := some 18, ch := some 0, div := some 2 }
def inClaim : State := { unbound with phase := .claim, pin := some 18, ch := some 0, div := some 2 }
def inQfreq : State := { bound with phase := .qfreq, pixl := [(0, col)] }
def inConv : State := { inQfreq with phase := .conv, freq := some 40000000 }
def inFill (i : Nat) (m : Memory Pair) : State :=
  { inConv with phase := .fill, dur := DurFile.ofDurations d40, idx := some i, sigbuf := m }
def fillStart : State := inFill 0 []
def fillEnd : State := inFill 24 (Memory.ofList 0 fullBuf)
def inSubmit : State := { fillEnd with phase := .submit, idx := none }
def inEmit : State := { inSubmit with phase := .emit }

/-- The state with the given values on its input ports. -/
def drive (p : Inputs) (s : State) : State := { s with ports := p }

/-- A command on the command port. -/
def cmd (word : BitVec 16) (pixData : Nat := 0) : Inputs :=
  { Inputs.silent with cmdValid := true, cmdWord := word, pixData := pixData }

/-- What is seen after one step. -/
def seen {α : Type} (f : State → α) (s : State) : Option α :=
  match step s with
  | .next t => some (f t)
  | .fault _ => none
  | .refused _ => none

/-! ### Ill-formed terms are refused -/

theorem test_wrong_length_ill_formed : Instr.wellFormed 5 (.transmit ⟨1, #v[col]⟩) = false := by decide
theorem test_no_pixels_ill_formed : Params.wellFormed { Params.reference with nPixels := 0 } = false := by decide
theorem test_reference_well_formed : Params.wellFormed Params.reference = true := by decide
-- G1: a base clock of 80 MHz and a divider of 2 give the 40 MHz of F_REF
theorem test_reference_clock : Params.reference.baseClkHz / Config.divRef.toNat = Config.fRef := by decide

/-! ### Words written out from R71, R72, R76, R78, R26 (V1 to V13) -/

theorem test_decode_V1 : decode 1 (.command 0x0000 0) = .ok .nop := by decide
theorem test_decode_V2 : decode 1 (.command 0x0049 0) = .ok (.init 18 0) := by decide
theorem test_decode_V4 : decode 1 (.command 0x0FFD 0) = .ok (.init 63 15) := by decide
theorem test_decode_V5 : decode 1 (.command 0x0315 0) = .ok (.init 5 3) := by decide
theorem test_decode_V8 : decode 1 (.command 0xF002 0x123456) = .ok (.transmit ⟨1, #v[⟨0x12, 0x34, 0x56⟩]⟩) := by decide
theorem test_decode_V9 : decode 1 (.command 0xFFFF 0) = .ok .release := by decide
theorem test_decode_V10 : decode 1 (.command 0x0FFC 0) = .ok .nop := by decide
theorem test_decode_V13 : decode 2 (.command 0x0002 0x8001AA123456) =
    .ok (.transmit ⟨2, #v[⟨0x12, 0x34, 0x56⟩, ⟨0x80, 0x01, 0xAA⟩]⟩) := by decide
theorem test_encode_V5 : encode (.init 5 3) = .command 0x0315 0 := by decide
theorem test_encode_V13 : encode (.transmit ⟨2, #v[⟨0x12, 0x34, 0x56⟩, ⟨0x80, 0x01, 0xAA⟩]⟩) = .command 0x0002 0x8001AA123456 := by
  decide
theorem test_decode_symbols : decode 1 (.symbol 0) = .ok .sym0 ∧ decode 1 (.symbol 1) = .ok .sym1 := by decide
theorem test_decode_phases : [0, 1, 2, 3, 4, 5, 6].map (fun c => decode 1 (.phase c)) =
    [.ok .idle, .ok .claim, .ok .qfreq, .ok .conv, .ok .fill, .ok .submit, .ok .emit] := by decide
theorem test_decode_phase_7 : decode 1 (.phase 7) = .error .reservedPhase := by decide

/-! ### Numbers of the table (log 11) -/

theorem test_table_command : decodeTableWord 16 0x0049 = some (.init 18 0) := by decide
theorem test_table_symbol : decodeTableWord 1 1 = some .sym1 := by decide
theorem test_table_phase : decodeTableWord 3 1 = some .claim ∧ decodeTableWord 8 6 = some .emit := by decide
theorem test_fetch_word_command : seen State.status (State.reset.withFetchWord 16 0x0049) = some 0x02 := by decide
theorem test_fetch_word_phase : decode 5 (fetch (State.reset.withFetchWord 3 4)) = .ok .fill := by decide
theorem test_fetch_word_symbol : seen (fun t => Memory.read t.sigbuf 7) (State.reset.withFetchWord 1 1) =
    some (some (pair1 d40)) := by decide

/-! ### One step each (2.8, P1 to P4) -/

-- NOP: V14d; P3, ninth command
theorem test_nop_unbound : seen State.status (drive (cmd 0x0000) unbound) = some 0x04 := by decide
theorem test_nop_bound : seen State.status (drive (cmd 0x0000) bound) = some 0x05 := by decide
-- INIT: P4 step 1; V23b
theorem test_init : seen (fun t => (t.status, t.pin, t.div)) (drive (cmd 0x0049) unbound) =
    some (0x02, some 18, some 2) := by decide
theorem test_init_bound : seen (fun t => (t.status, t.pin, t.ch)) (drive (cmd 0x0FFD) bound) =
    some (0x1D, some 18, some 0) := by decide
-- TRANSMIT: P1 step 1; V23h
theorem test_transmit : seen (fun t => (t.status, Memory.read t.pixl 0)) (drive (cmd 0x0002 0xFF0000) bound) =
    some (0x03, some ⟨0xFF, 0, 0⟩) := by decide
theorem test_transmit_unbound : seen State.status (drive (cmd 0x0002 0x010203) unbound) = some 0x7C := by decide
-- RELEASE: P2; V23i
theorem test_release : seen (fun t => (t.status, t.trace)) (drive (cmd 0x0003) { bound with pin := some 5, ch := some 3 }) =
    some (0x04, [.release 5 3]) := by decide
theorem test_release_unbound : seen State.status (drive (cmd 0x0003) unbound) = some 0x7C := by decide
-- SYM0, SYM1: V21 rows 0 and 2
theorem test_sym0 : seen (fun t => (t.idx, Memory.read t.sigbuf 7)) fillStart = some (some 1, some (pair0 d40)) := by decide
theorem test_sym1 : seen (fun t => (t.idx, Memory.read t.sigbuf 5)) (inFill 2 []) = some (some 3, some (pair1 d40)) := by
  decide
-- IDLE: R90
theorem test_idle : seen State.status bound = some 0x01 := by decide
-- CLAIM: P4 step 2; V23a
theorem test_claim_ok : seen (fun t => (t.status, t.trace))
    (drive { Inputs.silent with claimAck := true } inClaim) = some (0x05, [.claim 18 0 2, .claimAns .ok]) := by decide
theorem test_claim_err : seen (fun t => (t.status, t.pin))
    (drive { Inputs.silent with claimAck := true, claimErr := true } inClaim) = some (0x1C, none) := by decide
-- QFREQ: P1 step 2; V23c
theorem test_qfreq_ok : seen (fun t => (t.phase, t.freq))
    (drive { Inputs.silent with freqAck := true, freqHz := 40000000 } inQfreq) = some (.conv, some 40000000) := by decide
theorem test_qfreq_err : seen State.status
    (drive { Inputs.silent with freqAck := true, freqErr := true } inQfreq) = some 0x2D := by decide
-- CONV: P1 step 3; V23d
theorem test_conv_ok : seen (fun t => (t.idx, t.dur)) inConv = some (some 0, ⟨some 14, some 32, some 28, some 24⟩) := by decide
theorem test_conv_err : seen State.status { inConv with freq := some 1000000 } = some 0x3D := by decide
-- FILL: V21 row 9; P1 step 28
theorem test_fill_step : seen (fun t => Memory.read t.sigbuf 14) (inFill 9 []) = some (some (pair1 d40)) := by decide
theorem test_fill_exit : seen (fun t => (t.phase, t.idx)) fillEnd = some (.submit, none) := by decide
-- SUBMIT: P1 step 29; V23f
theorem test_submit_ok : seen (fun t => (t.phase, t.trace)) (drive { Inputs.silent with txAck := true } inSubmit) =
    some (.emit, [.start fullBuf, .startAns .ok]) := by decide
theorem test_submit_err : seen State.status (drive { Inputs.silent with txNack := true } inSubmit) = some 0x5D := by decide
-- EMIT: P1 step 30; V23g
theorem test_emit_ok : seen (fun t => (t.status, t.sigbuf)) (drive { Inputs.silent with txDone := true } inEmit) =
    some (0x05, []) := by decide
theorem test_emit_err : seen State.status (drive { Inputs.silent with txDone := true, txFault := true } inEmit) =
    some 0x6D := by decide
-- reset in a busy phase: P4 step 6
theorem test_reset : seen (fun t => (t.status, t.bound, t.rspValid)) (drive { Inputs.silent with rst := true } inEmit) =
    some (0x00, false, false) := by decide
-- a command held while busy: P4 step 2
theorem test_held : seen State.status (drive { cmd 0x0002 with claimAck := true } inClaim) = some 0x05 := by decide

/-! ### Functions: V15, V16, V17, V20, V22h, R163 -/

theorem test_ticks : [ticks 350 39999999, ticks 600 33333333, ticks 800 1249999, ticks 800 4294967295] = [13, 19, 0, 3435] := by
  decide
theorem test_durations : durations 255 318750000 = some ⟨111, 255, 223, 191⟩ ∧ durations 255 400000000 = none := by decide
theorem test_pair_words : pairWord 15 (pair0 d40) = 0x0020800E ∧ pairWord 15 (pair1 d40) = 0x0018801C := by decide
theorem test_classify : [14, 20, 21, 22, 28].map (fun h => classify d40 (mkPair h 1)) = [false, false, false, true, true] := by
  decide
theorem test_wpos : [0, 7, 8, 23, 24, 31, 112, 119].map wpos = [7, 0, 15, 16, 31, 24, 119, 112] := by decide
theorem test_buffer_V22h : fullBuf = [false, false, true, true, false, true, false, false, false, false, false, true, false, false,
    true, false, false, true, false, true, false, true, true, false].map (selp d40) := by decide
theorem test_frame_ticks : waveTicks (wave (frame [⟨0, 0, 0⟩] d40)) = 1104 ∧
    waveTicks (wave (frame [⟨255, 255, 255⟩] d40)) = 1248 := by decide

/-! ### For each statement with hypotheses: a state and operands that meet them, clause by clause -/

theorem inv_unbound : Inv unbound := by constructor <;> decide
theorem inv_bound : Inv bound := by constructor <;> decide
theorem inv_inClaim : Inv inClaim := by constructor <;> decide
theorem inv_inQfreq : Inv inQfreq := by constructor <;> decide
theorem inv_inConv : Inv inConv := by constructor <;> decide
theorem inv_fillStart : Inv fillStart := by constructor <;> decide
theorem inv_inSubmit : Inv inSubmit := by constructor <;> decide
theorem inv_inEmit : Inv inEmit := by constructor <;> decide

/-- Inv does not look at the input ports and the script. -/
theorem inv_inputs {s : State} (h : Inv s) (p : Inputs) (l : List Inputs) : Inv { s with ports := p, script := l } :=
  { h with }

theorem witness_DecodeEncodeRoundTrip : Instr.wellFormed 1 (.transmit ⟨1, #v[col]⟩) = true ∧ Instr.wellFormed 1 (.init 63 15) = true := by
  decide
theorem witness_PixelOperandPacking : 1 < 2 := by decide
theorem witness_PhaseCodesDecode : decodePhase 6 = .ok .emit := by decide
theorem witness_TableRowsDoNotOverlap : decode 5 (.command 0xFFFF 0) = .ok .release ∧
    (Instr.row .release).matches (.command 0xFFFF 0) = true := by decide
theorem witness_PairWordLayout : 32767 ≤ 32767 := by decide
theorem witness_OutputPortsFollowPhase : inEmit.phase = .emit ∧ 23 % 2 ^ ceilLog2 (24 * inEmit.params.nPixels) < 24 * inEmit.params.nPixels ∧
    Memory.read inEmit.sigbuf (23 % 2 ^ ceilLog2 (24 * inEmit.params.nPixels)) = some (pair0 d40) ∧
    24 * inEmit.params.nPixels ≤ 24 % 2 ^ ceilLog2 (24 * inEmit.params.nPixels) := by decide
theorem witness_StepExecutesWhatItDecodes : inQfreq.ports.rst = false ∧
    decode inQfreq.params.nPixels (fetch inQfreq) = .ok .qfreq := by decide
theorem witness_FetchReadsPortOrPhase : ((drive (cmd 0x0049) unbound).phase = .idle ∧
    (drive (cmd 0x0049) unbound).ports.cmdValid = true) ∧ inQfreq.phase ≠ .idle ∧ unbound.ports.cmdValid = false := by decide
theorem witness_AcceptanceByPhase : (unbound.phase = .idle ∧ unbound.ports.cmdValid = false) ∧
    ((drive (cmd 0x0049) unbound).phase = .idle ∧ (drive (cmd 0x0049) unbound).ports.cmdValid = true) ∧
    inEmit.phase ≠ .idle := by decide
theorem witness_BusyStepIgnoresCommandPort : inSubmit.phase ≠ .idle := by decide
theorem witness_ResetOverridesEveryPhase : (drive { Inputs.silent with rst := true } inEmit).ports.rst = true := by decide
theorem witness_ResetKeepsTheTrace :
    (drive { Inputs.silent with rst := true } inQfreq).phase = .qfreq ∧
    ((drive { Inputs.silent with rst := true } inClaim).phase = .claim ∧ inClaim.pin = some 18 ∧ inClaim.ch = some 0 ∧
      inClaim.div = some 2) ∧
    ((drive { Inputs.silent with rst := true } inSubmit).phase = .submit ∧
      Memory.readRange inSubmit.sigbuf 0 (24 * inSubmit.params.nPixels) = some fullBuf) ∧
    inEmit.phase ∈ [Phase.idle, .conv, .fill, .emit] := by decide
theorem witness_NopCompletesOk : (0x0FFC#16).extractLsb' 0 2 = 0 ∧ bound.phase = .idle ∧
    seen State.status (drive (cmd 0x0000) State.reset) = some 0x04 := by decide
theorem witness_NopCompletesOk_inv : Inv bound ∧ bound.phase = .idle := ⟨inv_bound, rfl⟩
theorem witness_NopCompletesOk_reset : ∃ t, exec .nop State.reset = .next t := ⟨_, rfl⟩
theorem witness_InitAcceptRule : (0x0049#16).extractLsb' 0 2 = 1 ∧ unbound.phase = .idle ∧ bound.phase = .idle ∧
    bound.bound = true := by decide
theorem witness_TransmitAcceptRule : (0xF002#16).extractLsb' 0 2 = 2 ∧ bound.phase = .idle ∧ unbound.phase = .idle := by decide
theorem witness_WrongLengthIsRejected : bound.phase = .idle ∧ (PixelOperand.mk 2 #v[col, col]).n ≠ bound.params.nPixels ∧
    (PixelOperand.mk 0 #v[]).n ≠ bound.params.nPixels := by decide
theorem witness_ReleaseRule : (0xFFFF#16).extractLsb' 0 2 = 3 ∧ (unbound.phase = .idle ∧ unbound.bound = false) ∧
    (bound.phase = .idle ∧ bound.bound = true ∧ bound.pin = some 18 ∧ bound.ch = some 0) := by decide
theorem witness_ClaimAnswerRule : inClaim.phase = .claim ∧ inClaim.pin = some 18 ∧ inClaim.ch = some 0 ∧
    inClaim.div = some 2 := by decide
theorem witness_FrequencyQueryRule : inQfreq.phase = .qfreq := by decide
theorem witness_ConversionRule : inConv.phase = .conv ∧ inConv.freq = some 40000000 := by decide
theorem witness_FillStepWritesOneSlot : (inFill 23 []).phase = .fill ∧ (inFill 23 []).idx = some 23 ∧
    23 < 24 * (inFill 23 []).params.nPixels ∧ Memory.read (inFill 23 []).pixl (23 / 24) = some col ∧
    (inFill 23 []).dur = ⟨some d40.t0h, some d40.t0l, some d40.t1h, some d40.t1l⟩ := by decide
theorem witness_FillExitRule : fillEnd.phase = .fill ∧ fillEnd.idx = some (24 * fillEnd.params.nPixels) := by decide
theorem witness_SymbolRowsSelectPairs : (inFill 23 []).phase = .fill ∧ (inFill 23 []).idx = some 23 ∧
    23 < 24 * (inFill 23 []).params.nPixels ∧ (inFill 23 []).dur.t0h = some 14 ∧ (inFill 23 []).dur.t0l = some 32 ∧
    (inFill 23 []).dur.t1h = some 28 ∧ (inFill 23 []).dur.t1l = some 24 ∧
    byteSel (inFill 23 []).pixl (walkByte 23) = some 0x56 := by decide
theorem witness_SlotWriteRangeCheck : 24 * fillStart.params.nPixels ≤ 24 ∧ 23 < 24 * fillStart.params.nPixels := by decide
theorem witness_SubmitRule : inSubmit.phase = .submit ∧ fullBuf.length = 24 * inSubmit.params.nPixels ∧
    (∀ p < 24 * inSubmit.params.nPixels, Memory.read inSubmit.sigbuf p = fullBuf[p]?) ∧
    (inSubmit.ports.txAck = false ∧ inSubmit.ports.txNack = false) ∧
    ({ Inputs.silent with txAck := true }.txAck = true ∧ { Inputs.silent with txAck := true }.txNack = false) ∧
    ({ Inputs.silent with txNack := true }.txAck = false ∧ { Inputs.silent with txNack := true }.txNack = true) := by decide
theorem witness_BothStartLinesIsOneAnswer :
    let s := drive { Inputs.silent with txAck := true, txNack := true } inSubmit
    s.phase = .submit ∧ Memory.readRange s.sigbuf 0 (24 * s.params.nPixels) = some fullBuf ∧ s.ports.txAck = true ∧
      s.ports.txNack = true := by decide
theorem witness_EmitRule : inEmit.phase = .emit := by decide
theorem witness_WaitingPhasesOnlyLeftByAnswer :
    (inClaim.phase = .claim ∧ inClaim.ports.rst = false ∧ inClaim.ports.claimAck = false ∧ seen (·.phase) inClaim = some .claim) ∧
    (inQfreq.phase = .qfreq ∧ inQfreq.ports.rst = false ∧ inQfreq.ports.freqAck = false ∧ seen (·.phase) inQfreq = some .qfreq) ∧
    (inSubmit.phase = .submit ∧ inSubmit.ports.rst = false ∧ inSubmit.ports.txAck = false ∧ inSubmit.ports.txNack = false ∧
      seen (·.phase) inSubmit = some .submit) ∧
    (inEmit.phase = .emit ∧ inEmit.ports.rst = false ∧ inEmit.ports.txDone = false ∧ seen (·.phase) inEmit = some .emit) := by
  decide
theorem witness_TransmitBlocksUntilDone :
    let s := drive { Inputs.silent with txDone := true } inEmit
    s.ports.rst = false ∧ transmittingPhase s.phase = true ∧ seen (fun t => (t.phase, t.err)) s = some (.idle, false) := by decide
theorem witness_PhaseOrder : fillEnd.ports.rst = false ∧ seen (·.phase) fillEnd = some .submit := by decide
theorem witness_StepKeepsInvariants : Inv inConv ∧ ∃ t, step inConv = .next t := ⟨inv_inConv, _, rfl⟩
theorem witness_InvariantStepAnswers : Inv fillStart := inv_fillStart
theorem witness_OfferedBuffersWellFormed :
    let s := drive { Inputs.silent with txAck := true } inSubmit
    Inv s ∧ TraceOk s ∧ seen (·.trace) s = some [.start fullBuf, .startAns .ok] :=
  ⟨inv_inputs inv_inSubmit _ _, fun _ h => (List.not_mem_nil h).elim, by decide⟩
theorem witness_MemoriesStayCanonical : MemoriesCanonical (inFill 9 []) ∧ seen (fun t => t.sigbuf) (inFill 9 []) =
    some [(14, pair1 d40)] := ⟨⟨rfl, rfl⟩, by decide⟩
theorem witness_IndexIsNeverRaised : seen (·.cause) { unbound with done := true, err := true, cause := .index } = some .index := by
  decide
theorem witness_ParametersNeverChange : seen (·.params) inConv = some one := by decide
theorem witness_BindingChangesOnlyByInitAndRelease : (drive (cmd 0x0003) bound).ports.rst = false ∧
    seen (·.bound) (drive (cmd 0x0003) bound) = some false := by decide
theorem witness_BufferStableDuringHandOver :
    (inSubmit.phase = .submit ∧ inSubmit.ports.rst = false ∧ seen (·.phase) inSubmit = some .submit) ∧
    (inEmit.phase = .emit ∧ seen (·.phase) inEmit = some .emit) ∧
    (fillStart.phase = .fill ∧ seen (·.phase) fillStart = some .fill) := by decide
theorem witness_ResponseExactlyAtCompletion :
    (inEmit.ports.rst = false ∧ seen (·.rsp) (drive { Inputs.silent with txDone := true } inEmit) =
      some (some ⟨false, .none⟩)) ∧
    (bound.ports.rst = false ∧ bound.phase = .idle ∧ bound.ports.cmdValid = false ∧ seen (·.rsp) bound = some none) := by
  decide
theorem witness_TraceEventsOfAStep :
    (fillStart.phase ∈ [Phase.conv, .fill] ∧ seen (·.trace) fillStart = some []) ∧
    seen (·.trace) (drive (cmd 0x0003) bound) = some [.release 18 0] ∧
    seen (·.trace) (drive { Inputs.silent with claimAck := true } inClaim) = some [.claim 18 0 2, .claimAns .ok] ∧
    seen (·.trace) (drive { Inputs.silent with freqAck := true, freqHz := 7 } inQfreq) = some [.freqQuery, .freqAns (.ok 7)] ∧
    seen (·.trace) (drive { Inputs.silent with txNack := true } inSubmit) = some [.start fullBuf, .startAns .err] ∧
    seen (·.trace) (drive { Inputs.silent with txDone := true } inEmit) = some [.doneAns .ok] := by decide
theorem witness_BufferOfferedOnlyFromSubmit : seen (·.trace) (drive { Inputs.silent with rst := true } inSubmit) =
    some [.start fullBuf] := by decide
theorem witness_StatusValuesNeverShown : Inv unbound ∧ Inv inClaim ∧ Inv inQfreq := ⟨inv_unbound, inv_inClaim, inv_inQfreq⟩
theorem witness_TicksLaws : 350 ≤ 800 ∧ 2857143 ≤ 40000000 ∧ 1 ≤ ticks 350 2857143 := by decide
theorem witness_ClassifyInvertsSelect : durations 32767 2857143 = some ⟨1, 2, 2, 1⟩ ∧
    distance (mkPair 21 32).hi.dur d40.t1h = distance (mkPair 21 32).hi.dur d40.t0h := by decide
theorem witness_ByteRoundTrip : durations 32767 40000000 = some d40 ∧ (byteStream [col])[2]? = some 0x56 ∧ 7 < 8 := by decide
theorem witness_WalkIsBijective : 119 < 24 * 5 ∧ wpos 112 = 119 := by decide
theorem witness_CompletedBufferLayout : (Inv inSubmit ∧ inSubmit.phase = .submit) ∧ (Inv inEmit ∧ inEmit.phase = .emit) ∧
    0 < inSubmit.params.nPixels ∧ 7 < 8 := ⟨⟨inv_inSubmit, rfl⟩, ⟨inv_inEmit, rfl⟩, by decide, by decide⟩
theorem witness_WaveformAlternates : bufferWellFormed 1 32767 fullBuf = true := by decide
theorem witness_PinCarriesPrefixes : [] ∈ carriedFrom 0 [.start fullBuf, .startAns .err] ∧
    ∀ buf, Event.start buf ∉ [Event.freqQuery, .freqAns .err] := ⟨by decide, by simp⟩
theorem witness_PinCarriesPrefixes_answered : ∀ pre buf post, [Event.start fullBuf, .startAns .ok, .doneAns .err] =
    pre ++ .start buf :: post →
      (∃ rest, post = .startAns .err :: rest) ∨ ∃ a rest, post = .startAns .ok :: .doneAns a :: rest := by
  intro pre buf post h
  rcases pre with _ | ⟨x, _ | ⟨y, _ | ⟨z, pre⟩⟩⟩ <;> simp at h
  exact .inr ⟨_, _, h.2.symm⟩
theorem witness_FillBuildsTheFrame :
    let s := { fillStart with script := List.replicate 24 Inputs.silent }
    Inv s ∧ s.phase = .fill ∧ s.idx = some 0 ∧ s.ports.rst = false ∧ 24 * s.params.nPixels ≤ s.script.length ∧
      ∀ i ∈ s.script.take (24 * s.params.nPixels), i.rst = false :=
  ⟨inv_inputs inv_fillStart fillStart.ports _, by decide⟩
theorem witness_TransmitRunsAsOneFunction :
    let q : Inputs := { Inputs.silent with freqAck := true, freqHz := 40000000 }
    let a : Inputs := { Inputs.silent with txAck := true }
    let z : Inputs := { Inputs.silent with txDone := true }
    let mid := List.replicate 26 Inputs.silent
    let s := { bound with ports := cmd 0x0002 0x123456, script := q :: mid ++ a :: z :: [] }
    Inv s ∧ (∀ tick, startAnswer tick a = some .ok) ∧ s.phase = .idle ∧ s.bound = true ∧ s.ports.rst = false ∧
      s.ports.cmdValid = true ∧ decodeCommand s.params.nPixels s.ports.cmdWord s.ports.pixData = .transmit #v[col] ∧
      mid.length = 24 * s.params.nPixels + 2 ∧ q.rst = false ∧ (∀ i ∈ mid, i.rst = false) ∧ a.rst = false ∧ z.rst = false ∧
      freqAnswer s.params.freqW q = some (.ok 40000000) ∧ doneAnswer z = some .ok :=
  ⟨inv_inputs inv_bound _ _, fun _ => rfl, by decide⟩

end Sys2Proof.Tests
end

/-! PROOFS. The walk counter and the bit it reaches, the parts of the invariant, what each row of R104 does to them, and the
statements of 10_state.md. -/

namespace Sys2Proof.Machine

/-! ### The walk (43_buffer_builder.md R147) -/

theorem wpos_wpos (p : Nat) : wpos (wpos p) = p := by unfold wpos; omega

theorem wpos_lt {n p : Nat} (h : p < 24 * n) : wpos p < 24 * n := by unfold wpos; omega

/-- The whole walk reaches every slot. -/
theorem exists_wpos_eq {s : State} {p : Nat} (h : p < s.slots) : ∃ t < s.slots, wpos t = p := ⟨wpos p, wpos_lt h, wpos_wpos p⟩

/-- Writing the slot of walk step `i` fills one more slot of a buffer that the first `i` steps have filled. -/
theorem read_write_wpos {m : Memory Pair} {f : Nat → Pair} {i p : Nat}
    (hheld : Memory.read m p = if ∃ t < i, wpos t = p then some (f p) else none) :
    Memory.read (Memory.write m (wpos i) (f (wpos i))) p = if ∃ t < i + 1, wpos t = p then some (f p) else none := by
  rw [Memory.read_write, hheld]
  by_cases hp : p = wpos i
  · rw [if_pos hp, if_pos ⟨i, Nat.lt_succ_self i, hp.symm⟩, hp]
  · simp only [if_neg hp, Nat.exists_lt_succ_right, Ne.symm hp, or_false]

/-- The bit that the walk extracts at step `i` is the stream's bit for the slot it writes (R131, R133, R135). -/
theorem streamBit_wpos (px : List Color) (i : Nat) :
    streamBit px (wpos i) = xbit (chan (px.getD (i / 24) default) (walkByte i % 3)) (walkBit i) := by
  have hpix : wpos i / 24 = i / 24 := by unfold wpos; omega
  have hchan : wpos i % 24 / 8 = walkByte i % 3 := by unfold wpos walkByte; omega
  have hbit : 7 - wpos i % 8 = walkBit i := by unfold wpos walkBit; omega
  rw [streamBit, hpix, hchan, hbit]

/-! ### The pixel latch -/

/-- A full latch is a load of the pixel sequence it holds. -/
theorem pixl_eq_ofList {s : State} {n : Nat} (h : s.pixl.map Prod.fst = List.range n) :
    s.pixl = Memory.ofList 0 s.pixels ∧ s.pixels.length = n := by
  refine ⟨Memory.eq_ofList (by rw [h, List.range_eq_range']), ?_⟩
  simpa [State.pixels] using congrArg List.length h

/-- The byte that BYTESEL reads at walk step `i` of a full latch (R131). -/
theorem byteSel_walkByte {s : State} {i : Nat} (h : s.pixl.map Prod.fst = List.range s.params.nPixels) (hi : i < s.slots) :
    byteSel s.pixl (walkByte i) = some (chan (s.pixels.getD (i / 24) default) (walkByte i % 3)) := by
  obtain ⟨hm, hlen⟩ := pixl_eq_ofList h
  have hpix : walkByte i / 3 = i / 24 := by unfold walkByte; omega
  have hlt : i / 24 < s.pixels.length := by unfold State.slots at hi; omega
  rw [byteSel, hpix, hm, Memory.read_ofList]
  simp [List.getD_eq_getElem?_getD, List.getElem?_eq_getElem hlt]

/-! ### The parts of the invariant

Inv speaks of three groups of registers that the rows of R104 change one at a time. -/

/-- The clauses of Inv about BOUND, PIN, CH, DIV. -/
structure BindingInv (s : State) : Prop where
  transmitting_bound : transmittingPhase s.phase = true → s.bound = true
  pin_held : s.pin.isSome = (s.bound || decide (s.phase = .claim))
  ch_held : s.ch.isSome = (s.bound || decide (s.phase = .claim))
  div_held : s.div.isSome = (s.bound || decide (s.phase = .claim))
  claim_unbound : s.phase = .claim → s.bound = false
  div_ref : s.div = none ∨ s.div = some Config.divRef
  pin_range : s.pin.getD 0 < 2 ^ s.params.pinW
  ch_range : s.ch.getD 0 < 2 ^ s.params.chW

/-- The clauses of Inv about DONE, ERR, CAUSE. -/
structure FlagsInv (s : State) : Prop where
  err_cause : s.err = false → s.cause = .none
  done_idle : s.done = true → s.phase = .idle
  err_done : s.err = true → s.done = true
  cause_bound : s.cause = .freq ∨ s.cause = .conv ∨ s.cause = .txStart ∨ s.cause = .txFault → s.bound = true
  cause_unbound : s.cause = .notBound → s.bound = false
  cause_not_index : s.cause ≠ .index
  err_has_cause : s.err = true → s.cause ≠ .none

/-- The clauses of Inv about the registers of a transmission: PIXL, FREQ, DUR, IDX, SIGBUF. -/
structure TransmitInv (s : State) : Prop where
  pixl_held : s.pixl.map Prod.fst = if transmittingPhase s.phase then List.range s.params.nPixels else []
  freq_held : s.freq.isSome = freqPhase s.phase
  dur_held : if durPhase s.phase then
      (s.freq.bind (durations s.params.tickMax)).map DurFile.ofDurations = some s.dur
    else s.dur = DurFile.empty
  idx_held : s.idx.isSome = decide (s.phase = .fill)
  idx_range : s.idx.getD 0 ≤ s.slots
  sigbuf_wf : Memory.wf s.sigbuf = true
  sigbuf_range : ∀ e ∈ s.sigbuf, e.1 < s.slots
  sigbuf_held : ∀ p < s.slots, Memory.read s.sigbuf p =
    if ∃ t < s.walked, wpos t = p then some (selp s.dur.values (streamBit s.pixels p)) else none
  freq_range : s.freq.getD 0 < 2 ^ s.params.freqW

variable {s t : State}

theorem Inv.binding (h : Inv s) : BindingInv s := { h with }
theorem Inv.flags (h : Inv s) : FlagsInv s := { h with }
theorem Inv.transmit (h : Inv s) : TransmitInv s := { h with }

/-- Inv is its three parts and R6. -/
theorem inv_of_parts (hw : s.params.wellFormed = true) (hb : BindingInv s) (hf : FlagsInv s) (ht : TransmitInv s) : Inv s :=
  { hb, hf, ht with params_wf := hw }

/-! What Inv does not look at -/

theorem Inv.quiet (h : Inv s) : Inv s.quiet := { h with }
theorem Inv.log (h : Inv s) (es : List Event) : Inv (s.log es) := { h with }

theorem Inv.nextInputs (h : Inv s) : Inv s.nextInputs := by
  unfold State.nextInputs
  split <;> exact { h with }

/-! ### The binding -/

/-- A step that leaves the binding, and does not enter or leave CLAIM, keeps its clauses. -/
theorem BindingInv.congr (h : BindingInv s) (hparams : t.params = s.params) (hbound : t.bound = s.bound) (hpin : t.pin = s.pin)
    (hch : t.ch = s.ch) (hdiv : t.div = s.div) (hclaim : t.phase = .claim ↔ s.phase = .claim)
    (htx : transmittingPhase t.phase = true → s.bound = true) : BindingInv t where
  transmitting_bound := by rwa [hbound]
  pin_held := by simpa only [hbound, hpin, hclaim] using h.pin_held
  ch_held := by simpa only [hbound, hch, hclaim] using h.ch_held
  div_held := by simpa only [hbound, hdiv, hclaim] using h.div_held
  claim_unbound := by simpa only [hbound, hclaim] using h.claim_unbound
  div_ref := by simpa only [hdiv] using h.div_ref
  pin_range := by simpa only [hparams, hpin] using h.pin_range
  ch_range := by simpa only [hparams, hch] using h.ch_range

/-- No binding, in an idle block. -/
theorem BindingInv.of_unbound (hphase : s.phase = .idle) (hbound : s.bound = false) (hpin : s.pin = none) (hch : s.ch = none)
    (hdiv : s.div = none) : BindingInv s := by
  constructor <;> simp [hphase, hbound, hpin, hch, hdiv, transmittingPhase]

/-- Outside CLAIM a completion keeps the binding. -/
theorem BindingInv.ended (h : BindingInv s) (hp : s.phase ≠ .claim) (e : Bool) (c : Cause) : BindingInv (s.ended e c) :=
  h.congr rfl rfl rfl rfl rfl (by simp [hp]) (by simp [transmittingPhase])

/-! ### The flags -/

theorem FlagsInv.of_clear (hdone : s.done = false) (herr : s.err = false) (hcause : s.cause = .none) : FlagsInv s := by
  constructor <;> simp [hdone, herr, hcause]

/-- The causes a command can end with, by BOUND (R171, 95_test_vectors.md 2.3). -/
def causeFits (bound : Bool) : Cause → Bool
  | .none | .claim => true
  | .freq | .conv | .txStart | .txFault => bound
  | .notBound => !bound
  | .index => false

theorem FlagsInv.ended {e : Bool} {c : Cause} (he : e = decide (c ≠ .none)) (hc : causeFits s.bound c = true) :
    FlagsInv (s.ended e c) := by
  subst he
  constructor
  case cause_bound => cases c <;> simp_all [causeFits]
  case cause_unbound => cases c <;> simp_all [causeFits]
  case cause_not_index => cases c <;> simp_all [causeFits]
  all_goals simp

/-- While a command is in progress the flags are clear. -/
theorem FlagsInv.clear_of_busy (h : FlagsInv s) (hp : s.phase ≠ .idle) : s.done = false ∧ s.err = false ∧ s.cause = .none := by
  have hdone : s.done = false := Bool.eq_false_iff.2 fun hd => hp (h.done_idle hd)
  have herr : s.err = false := Bool.eq_false_iff.2 fun he => by simp [h.err_done he] at hdone
  exact ⟨hdone, herr, h.err_cause herr⟩

/-! ### The registers of a transmission -/

/-- No register of a transmission holds a value (R39). -/
structure NoTransmission (s : State) : Prop where
  pixl : s.pixl = []
  freq : s.freq = none
  dur : s.dur = DurFile.empty
  idx : s.idx = none
  sigbuf : s.sigbuf = []

theorem NoTransmission.ended (e : Bool) (c : Cause) : NoTransmission (s.ended e c) := ⟨rfl, rfl, rfl, rfl, rfl⟩

theorem phases_of_not_transmitting {p : Phase} (h : transmittingPhase p = false) :
    freqPhase p = false ∧ durPhase p = false ∧ p ≠ .fill := by
  cases p <;> simp_all [transmittingPhase, freqPhase, durPhase]

theorem walked_eq_zero (h : durPhase s.phase = false) : s.walked = 0 := by
  unfold State.walked
  cases hp : s.phase <;> simp_all [durPhase]

theorem NoTransmission.transmitInv (h : NoTransmission s) (hp : transmittingPhase s.phase = false) : TransmitInv s := by
  obtain ⟨hpixl, hfreq, hdur, hidx, hsigbuf⟩ := h
  obtain ⟨hfreqPhase, hdurPhase, hfill⟩ := phases_of_not_transmitting hp
  constructor <;> simp [hpixl, hfreq, hdur, hidx, hsigbuf, hp, hfreqPhase, hdurPhase, hfill, walked_eq_zero]

/-- Before the first walk step the buffer holds nothing. -/
theorem TransmitInv.sigbuf_eq_nil (h : TransmitInv s) (hw : s.walked = 0) : s.sigbuf = [] := by
  refine Memory.eq_nil_of_read fun a => ?_
  by_cases ha : a < s.slots
  · rw [h.sigbuf_held a ha, hw]; simp
  · exact Option.eq_none_iff_forall_ne_some.2 fun v hv => ha (h.sigbuf_range _ (Memory.mem_of_read hv))

theorem TransmitInv.noTransmission (h : TransmitInv s) (hp : transmittingPhase s.phase = false) : NoTransmission s := by
  obtain ⟨hfreqPhase, hdurPhase, hfill⟩ := phases_of_not_transmitting hp
  exact {
    pixl := by simpa [hp] using h.pixl_held
    freq := by simpa [hfreqPhase] using h.freq_held
    dur := by simpa [hdurPhase] using h.dur_held
    idx := by simpa [hfill] using h.idx_held
    sigbuf := h.sigbuf_eq_nil (walked_eq_zero hdurPhase) }

/-- The record that DUR holds from CONV on, in range as R114 checks it (R42 (f)). -/
theorem TransmitInv.exists_durations (h : TransmitInv s) (hp : durPhase s.phase = true) :
    ∃ f d, s.freq = some f ∧ durations s.params.tickMax f = some d ∧ s.dur = DurFile.ofDurations d := by
  have hdur := h.dur_held
  rw [if_pos hp, Option.map_eq_some_iff] at hdur
  obtain ⟨d, hd, hfile⟩ := hdur
  obtain ⟨f, hf, hd⟩ := Option.bind_eq_some_iff.1 hd
  exact ⟨f, d, hf, hd, hfile.symm⟩

/-! ### The FILL row forwards -/

/-- A FILL step below 24N is the symbol its data bit names (R78, R148). -/
theorem execFill_eq_fillSymbol {i : Nat} {byte : Byte} (hp : s.phase = .fill) (hidx : s.idx = some i) (hi : i < s.slots)
    (hbyte : byteSel s.pixl (walkByte i) = some byte) : execFill s = fillSymbol (xbit byte (walkBit i)) s.quiet := by
  unfold execFill
  rw [inPhase_eq hp]
  cases hx : xbit byte (walkBit i) <;> simp [hidx, hi, hbyte, hx, execSym0, execSym1]

/-- What a data-bit symbol does where DUR is full and the slot is in range (R119, R146). -/
theorem fillSymbol_eq_selp {b : Bool} {i : Nat} {d : Durations} (hp : s.phase = .fill) (hidx : s.idx = some i)
    (hd : s.dur = DurFile.ofDurations d) (hi : i < s.slots) :
    fillSymbol b s =
      .next { s.quiet with sigbuf := Memory.write s.sigbuf (wpos i) (selp d b), idx := some (i + 1) } := by
  cases b
  case false => exact fillSymbol_eq hp hidx (by rw [hd]; rfl) (by rw [hd]; rfl) (wpos_lt hi)
  case true => exact fillSymbol_eq hp hidx (by rw [hd]; rfl) (by rw [hd]; rfl) (wpos_lt hi)

theorem execFill_exit (hp : s.phase = .fill) (hidx : s.idx = some s.slots) :
    execFill s = .next { s.quiet with idx := none, phase := .submit } := by
  unfold execFill
  rw [inPhase_eq hp]
  simp [hidx]

/-! ### What a completion and a reset leave -/

/-- A completion meets Inv if the binding it leaves does and its cause fits that binding. -/
theorem inv_ended {e : Bool} {c : Cause} (hw : s.params.wellFormed = true) (hb : BindingInv (s.ended e c))
    (he : e = decide (c ≠ .none)) (hc : causeFits s.bound c = true) : Inv (s.ended e c) :=
  inv_of_parts hw hb (.ended he hc) ((NoTransmission.ended e c).transmitInv rfl)

/-- Outside CLAIM a completion with a fitting cause keeps Inv. -/
theorem Inv.ended (h : Inv s) {e : Bool} {c : Cause} (hp : s.phase ≠ .claim) (he : e = decide (c ≠ .none))
    (hc : causeFits s.bound c = true) : Inv (s.ended e c) :=
  inv_ended h.params_wf (h.binding.ended hp e c) he hc

theorem inv_resetWith {p : Params} (hw : p.wellFormed = true) : Inv (State.resetWith p) :=
  inv_of_parts hw (.of_unbound rfl rfl rfl rfl rfl) (.of_clear rfl rfl rfl)
    (NoTransmission.transmitInv ⟨rfl, rfl, rfl, rfl, rfl⟩ rfl)

theorem inv_applyReset (hw : s.params.wellFormed = true) : Inv s.applyReset := { inv_resetWith hw with }

theorem Inv.clearFlags (h : Inv s) : Inv s.clearFlags :=
  inv_of_parts h.params_wf { h.binding with } (.of_clear rfl rfl rfl) { h.transmit with }

/-! ### The commands keep Inv -/

theorem ne_claim_of_idle (hp : s.phase = .idle) : s.phase ≠ .claim := by simp [hp]

theorem Inv.after_execNop (h : Inv s) (hx : execNop s = .next t) : Inv t := by
  rcases execNop_next hx with ⟨hp, rfl⟩ | ⟨-, rfl⟩
  · exact h.quiet.clearFlags.ended (ne_claim_of_idle hp) rfl rfl
  · exact h

/-- INIT on an unbound block writes the binding that it claims (R91). -/
theorem Inv.initAccepted (h : Inv s) (hp : s.phase = .idle) (hb : s.bound = false) (pinf : PinField) (chf : ChField) :
    Inv ((s.quiet.clearFlags.setBinding (some (s.pinOf pinf)) (some (s.chOf chf)) (some Config.divRef)).goto .claim) := by
  have hnone : NoTransmission s := h.transmit.noTransmission (by rw [hp]; rfl)
  refine inv_of_parts h.params_wf ?_ (.of_clear rfl rfl rfl) (NoTransmission.transmitInv { hnone with } rfl)
  constructor <;> simp [hb, transmittingPhase, State.pinOf, State.chOf, Nat.mod_lt]

theorem Inv.after_execInit {pinf : PinField} {chf : ChField} (h : Inv s) (hx : execInit pinf chf s = .next t) : Inv t := by
  rcases execInit_next hx with ⟨hp, -, rfl⟩ | ⟨hp, hb, rfl⟩ | ⟨-, rfl⟩
  · exact h.quiet.clearFlags.ended (ne_claim_of_idle hp) rfl rfl
  · exact h.initAccepted hp hb pinf chf
  · exact h

/-- TRANSMIT on a bound block fills the pixel latch and nothing else (R95). -/
theorem Inv.transmitAccepted (h : Inv s) (hp : s.phase = .idle) (hb : s.bound = true) {px : List Color}
    (hn : px.length = s.params.nPixels) :
    Inv { s.quiet.clearFlags with pixl := Memory.ofList 0 px, phase := .qfreq } := by
  obtain ⟨-, hfreq, hdur, hidx, hsigbuf⟩ := h.transmit.noTransmission (by rw [hp]; rfl)
  refine inv_of_parts h.params_wf
    (h.binding.congr rfl rfl rfl rfl rfl (by simp [hp]) fun _ => hb) (.of_clear rfl rfl rfl) ?_
  constructor
  case pixl_held => simp [Memory.keys_ofList, hn, transmittingPhase, List.range_eq_range']
  all_goals simp [hfreq, hdur, hidx, hsigbuf, freqPhase, durPhase, State.walked]

theorem Inv.after_execTransmit {px : PixelOperand} (h : Inv s) (hx : execTransmit px s = .next t) : Inv t := by
  rcases execTransmit_next hx with ⟨hp, -, hb, rfl⟩ | ⟨hp, hn, hb, rfl⟩ | ⟨-, rfl⟩
  · exact h.quiet.clearFlags.ended (ne_claim_of_idle hp) rfl (by simp [hb, causeFits])
  · exact h.transmitAccepted hp hb (by simpa using hn)
  · exact h

theorem Inv.after_execRelease (h : Inv s) (hx : execRelease s = .next t) : Inv t := by
  rcases execRelease_next hx with ⟨hp, hb, rfl⟩ | ⟨-, -, pin, ch, -, -, rfl⟩ | ⟨-, rfl⟩
  · exact h.quiet.clearFlags.ended (ne_claim_of_idle hp) rfl (by simp [hb, causeFits])
  · exact inv_ended h.params_wf (.of_unbound rfl rfl rfl rfl rfl) rfl rfl
  · exact h

theorem Inv.after_execCommand {n : Nat} {c : Command n} (h : Inv s) (hx : exec c.toInstr s = .next t) : Inv t := by
  cases c
  case nop => exact h.after_execNop hx
  case init => exact h.after_execInit hx
  case transmit => exact h.after_execTransmit hx
  case release => exact h.after_execRelease hx

/-! ### The rows of the phases keep Inv -/

theorem Inv.after_execClaim (h : Inv s) (hx : execClaim s = .next t) : Inv t := by
  obtain ⟨hp, ⟨-, rfl⟩ | ⟨a, pin, ch, div, -, hpin, hch, hdiv, ⟨-, rfl⟩ | ⟨-, rfl⟩⟩⟩ := execClaim_next hx
  · exact h.quiet
  · have hb : BindingInv ({ s.quiet.log [.claim pin ch div, .claimAns a] with bound := true }.ended false .none) :=
      { h with
        transmitting_bound := fun _ => rfl
        pin_held := by simp [hpin]
        ch_held := by simp [hch]
        div_held := by simp [hdiv]
        claim_unbound := fun hq => nomatch hq }
    exact inv_ended h.params_wf hb rfl rfl
  · have hb : s.bound = false := h.claim_unbound hp
    exact inv_ended h.params_wf (.of_unbound rfl hb rfl rfl rfl) rfl rfl

/-- The rows of a TRANSMIT in progress: if the next phase is one too and the binding and the flags stay, only the registers of
the transmission are left to check. -/
theorem Inv.of_transmit (h : Inv s) (hp : transmittingPhase s.phase = true) (ht : transmittingPhase t.phase = true)
    (hparams : t.params = s.params) (hbound : t.bound = s.bound) (hpin : t.pin = s.pin) (hch : t.ch = s.ch) (hdiv : t.div = s.div)
    (hdone : t.done = s.done) (herr : t.err = s.err) (hcause : t.cause = s.cause) (hregs : TransmitInv t) : Inv t := by
  have hclaim {p : Phase} (hq : transmittingPhase p = true) : p ≠ .claim := by rintro rfl; cases hq
  have hidle : s.phase ≠ .idle := by intro hq; rw [hq] at hp; cases hp
  obtain ⟨hd, he, hc⟩ := h.flags.clear_of_busy hidle
  refine inv_of_parts (hparams ▸ h.params_wf)
    (h.binding.congr hparams hbound hpin hch hdiv ?_ fun _ => h.transmitting_bound hp)
    (.of_clear (hdone.trans hd) (herr.trans he) (hcause.trans hc)) hregs
  exact iff_of_false (hclaim ht) (hclaim hp)

/-- In a phase of TRANSMIT every cause of TRANSMIT's own errors fits. -/
theorem Inv.transmitEnded (h : Inv s) (hp : transmittingPhase s.phase = true) {e : Bool} {c : Cause}
    (he : e = decide (c ≠ .none)) (hc : causeFits true c = true) : Inv (s.ended e c) :=
  h.ended (by intro hq; rw [hq] at hp; cases hp) he (h.transmitting_bound hp ▸ hc)

theorem Inv.after_execQfreq (h : Inv s) (hx : execQfreq s = .next t) : Inv t := by
  obtain ⟨hp, ⟨-, rfl⟩ | ⟨f, hf, rfl⟩ | ⟨-, rfl⟩⟩ := execQfreq_next hx
  · exact h.quiet
  · have htx : transmittingPhase s.phase = true := by rw [hp]; rfl
    refine h.of_transmit htx rfl rfl rfl rfl rfl rfl rfl rfl rfl ?_
    have hsigbuf : s.sigbuf = [] := h.transmit.sigbuf_eq_nil (walked_eq_zero (by rw [hp]; rfl))
    exact { h with
      pixl_held := by simpa [hp, transmittingPhase] using h.pixl_held
      freq_held := rfl
      dur_held := by simpa [hp, durPhase] using h.dur_held
      idx_held := by simpa [hp] using h.idx_held
      sigbuf_held := fun p _ => by simp [hsigbuf, State.walked]
      freq_range := freqAnswer_ok hf }
  · exact (h.quiet.log _).transmitEnded (by simp [hp, transmittingPhase]) rfl rfl

theorem Inv.after_execConv (h : Inv s) (hx : execConv s = .next t) : Inv t := by
  obtain ⟨hp, f, hf, ⟨d, hd, rfl⟩ | ⟨-, rfl⟩⟩ := execConv_next hx
  · have htx : transmittingPhase s.phase = true := by rw [hp]; rfl
    refine h.of_transmit htx rfl rfl rfl rfl rfl rfl rfl rfl rfl ?_
    have hsigbuf : s.sigbuf = [] := h.transmit.sigbuf_eq_nil (walked_eq_zero (by rw [hp]; rfl))
    exact { h with
      pixl_held := by simpa [hp, transmittingPhase] using h.pixl_held
      freq_held := by simp [hf, freqPhase]
      dur_held := by simp [hf, hd, durPhase]
      idx_held := rfl
      idx_range := Nat.zero_le _
      sigbuf_held := fun p _ => by simp [hsigbuf, State.walked] }
  · exact h.quiet.transmitEnded (by simp [hp, transmittingPhase]) rfl rfl

/-- The state after walk step `i`: the slot it reaches holds the pair of the layout (R52, R148). -/
def State.walkStep (i : Nat) (s : State) : State :=
  { s.quiet with
    sigbuf := Memory.write s.sigbuf (wpos i) (selp s.dur.values (streamBit s.pixels (wpos i))), idx := some (i + 1) }

theorem walkStep_walked (hp : s.phase = .fill) (i : Nat) : (s.walkStep i).walked = i + 1 := by
  simp [State.walked, State.walkStep, hp]

theorem Inv.walkStep (h : Inv s) (hp : s.phase = .fill) {i : Nat} (hidx : s.idx = some i) (hi : i < s.slots) :
    Inv (s.walkStep i) := by
  have htx : transmittingPhase s.phase = true := by rw [hp]; rfl
  refine h.of_transmit htx htx rfl rfl rfl rfl rfl rfl rfl rfl ?_
  exact { h with
    idx_held := by simp [State.walkStep, hp]
    idx_range := hi
    sigbuf_wf := Memory.wf_write _ _ h.sigbuf_wf
    sigbuf_range := fun e he => by
      rcases Memory.mem_write he with rfl | he
      · exact wpos_lt hi
      · exact h.sigbuf_range e he
    sigbuf_held := fun p hlt => by
      have hheld := h.sigbuf_held p hlt
      rw [show s.walked = i by simp [State.walked, hp, hidx]] at hheld
      rw [walkStep_walked hp]
      exact read_write_wpos (f := fun q => selp s.dur.values (streamBit s.pixels q)) hheld }

/-- The exit of the fill loop: every slot is walked (R150). -/
theorem Inv.fillExit (h : Inv s) (hp : s.phase = .fill) (hidx : s.idx = some s.slots) :
    Inv { s.quiet with idx := none, phase := .submit } := by
  refine h.of_transmit (by rw [hp]; rfl) rfl rfl rfl rfl rfl rfl rfl rfl rfl ?_
  exact { h with
    pixl_held := by simpa [hp, transmittingPhase] using h.pixl_held
    freq_held := by simpa [hp, freqPhase] using h.freq_held
    dur_held := by simpa [hp, durPhase] using h.dur_held
    idx_held := rfl
    idx_range := Nat.zero_le _
    sigbuf_held := fun p hlt => by
      have hheld := h.sigbuf_held p hlt
      rwa [show s.walked = s.slots by simp [State.walked, hp, hidx]] at hheld }

/-- Where Inv holds a FILL step is one of two: a bit of the walk, or the exit at IDX = 24N (R148, R150). -/
theorem Inv.execFill_eq (h : Inv s) (hp : s.phase = .fill) :
    (∃ i, s.idx = some i ∧ i < s.slots ∧ execFill s = .next (s.walkStep i)) ∨
    (s.idx = some s.slots ∧ execFill s = .next { s.quiet with idx := none, phase := .submit }) := by
  obtain ⟨i, hidx⟩ := Option.isSome_iff_exists.1 (h.idx_held.trans (by simp [hp]))
  have hle : i ≤ s.slots := by simpa [hidx] using h.idx_range
  rcases hle.lt_or_eq with hi | rfl
  · obtain ⟨f, d, -, -, hd⟩ := h.transmit.exists_durations (by rw [hp]; rfl)
    have hbyte := byteSel_walkByte (by simpa [hp, transmittingPhase] using h.pixl_held) hi
    have hvalues : s.dur.values = d := by rw [hd]; rfl
    refine .inl ⟨i, hidx, hi, ?_⟩
    rw [execFill_eq_fillSymbol hp hidx hi hbyte, ← streamBit_wpos, State.walkStep, hvalues]
    exact fillSymbol_eq_selp hp hidx hd hi
  · exact .inr ⟨hidx, execFill_exit hp hidx⟩

theorem Inv.after_execFill (h : Inv s) (hx : execFill s = .next t) : Inv t := by
  have hp : s.phase = .fill := (execFill_next hx).1
  rcases h.execFill_eq hp with ⟨i, hidx, hi, heq⟩ | ⟨hidx, heq⟩ <;> rw [heq] at hx <;> cases hx
  · exact h.walkStep hp hidx hi
  · exact h.fillExit hp hidx

theorem Inv.after_execSubmit (h : Inv s) (hx : execSubmit s = .next t) : Inv t := by
  obtain ⟨hp, ⟨-, rfl⟩ | ⟨a, buf, -, -, ⟨-, rfl⟩ | ⟨-, rfl⟩⟩⟩ := execSubmit_next hx
  · exact h.quiet
  · refine h.of_transmit (by rw [hp]; rfl) rfl rfl rfl rfl rfl rfl rfl rfl rfl ?_
    exact { h with
      pixl_held := by simpa [hp, transmittingPhase] using h.pixl_held
      freq_held := by simpa [hp, freqPhase] using h.freq_held
      dur_held := by simpa [hp, durPhase] using h.dur_held
      idx_held := by simpa [hp] using h.idx_held
      sigbuf_held := fun p hlt => by
        have hheld := h.sigbuf_held p hlt
        rwa [show s.walked = s.slots by simp [State.walked, hp]] at hheld }
  · exact (h.quiet.log _).transmitEnded (by simp [hp, transmittingPhase]) rfl rfl

theorem Inv.after_execEmit (h : Inv s) (hx : execEmit s = .next t) : Inv t := by
  obtain ⟨hp, ⟨-, rfl⟩ | ⟨-, rfl⟩ | ⟨-, rfl⟩⟩ := execEmit_next hx
  · exact h.quiet
  · exact (h.quiet.log _).transmitEnded (by simp [hp, transmittingPhase]) rfl rfl
  · exact (h.quiet.log _).transmitEnded (by simp [hp, transmittingPhase]) rfl rfl

/-! ### Where Inv holds every row answers (R41) -/

theorem need_answers {α : Type} {r : Reg} {v : Option α} {k : α → Result} (hv : v.isSome = true)
    (hk : ∀ x, ∃ t, k x = .next t) : ∃ t, need r v k = .next t := by
  obtain ⟨x, rfl⟩ := Option.isSome_iff_exists.1 hv
  exact hk x

theorem accept_answers {k : State → Result} (hk : ∃ t, k s.quiet.clearFlags = .next t) : ∃ t, accept s k = .next t := by
  unfold accept
  split
  · exact hk
  · exact ⟨s, rfl⟩

theorem execInit_answers (pinf : PinField) (chf : ChField) (s : State) : ∃ t, execInit pinf chf s = .next t := by
  refine accept_answers ?_
  split <;> exact ⟨_, rfl⟩

theorem execTransmit_answers {px : PixelOperand} (hn : px.n = s.params.nPixels) : ∃ t, execTransmit px s = .next t := by
  refine accept_answers ?_
  split
  · rename_i hne
    exact absurd hn hne
  · split <;> exact ⟨_, rfl⟩

/-- RELEASE reads PIN and CH only in a bound block, which holds them (R42 (c)). -/
theorem Inv.execRelease_answers (h : Inv s) : ∃ t, execRelease s = .next t := by
  refine accept_answers ?_
  split
  · rename_i hb
    replace hb : s.bound = true := hb
    exact need_answers (h.pin_held.trans (by simp [hb])) fun _ =>
      need_answers (h.ch_held.trans (by simp [hb])) fun _ => ⟨_, rfl⟩
  · exact ⟨_, rfl⟩

theorem Inv.execCommand_answers (h : Inv s) (c : Command s.params.nPixels) : ∃ t, exec c.toInstr s = .next t := by
  cases c
  case nop => exact accept_answers ⟨_, rfl⟩
  case init pinf chf => exact execInit_answers pinf chf s
  case transmit px => exact execTransmit_answers rfl
  case release => exact h.execRelease_answers

theorem Inv.execClaim_answers (h : Inv s) (hp : s.phase = .claim) : ∃ t, execClaim s = .next t := by
  unfold execClaim
  rw [inPhase_eq hp]
  split
  · exact ⟨_, rfl⟩
  · rename_i a ha
    refine need_answers (h.pin_held.trans (by simp [hp])) fun _ => need_answers (h.ch_held.trans (by simp [hp])) fun _ =>
      need_answers (h.div_held.trans (by simp [hp])) fun _ => ?_
    cases a <;> exact ⟨_, rfl⟩

theorem execQfreq_answers (hp : s.phase = .qfreq) : ∃ t, execQfreq s = .next t := by
  unfold execQfreq
  rw [inPhase_eq hp]
  split
  · exact ⟨_, rfl⟩
  · rename_i a ha
    cases a <;> exact ⟨_, rfl⟩

theorem Inv.execConv_answers (h : Inv s) (hp : s.phase = .conv) : ∃ t, execConv s = .next t := by
  unfold execConv
  rw [inPhase_eq hp]
  refine need_answers (h.freq_held.trans (by simp [hp, freqPhase])) fun f => ?_
  split <;> exact ⟨_, rfl⟩

theorem Inv.execFill_answers (h : Inv s) (hp : s.phase = .fill) : ∃ t, execFill s = .next t := by
  rcases h.execFill_eq hp with ⟨i, -, -, heq⟩ | ⟨-, heq⟩ <;> exact ⟨_, heq⟩

/-- Once the walk is over every slot holds the pair of the layout (R52), so SUBMIT can hand the whole buffer over. -/
theorem Inv.read_sigbuf (h : Inv s) (hw : s.walked = s.slots) {p : Nat} (hp : p < s.slots) :
    Memory.read s.sigbuf p = some (selp s.dur.values (streamBit s.pixels p)) := by
  rw [h.sigbuf_held p hp, hw, if_pos (exists_wpos_eq hp)]

theorem Inv.readRange_sigbuf (h : Inv s) (hw : s.walked = s.slots) :
    Memory.readRange s.sigbuf 0 s.slots =
      some ((List.range s.slots).map fun p => selp s.dur.values (streamBit s.pixels p)) := by
  refine Memory.readRange_eq_some.2 ⟨by simp, fun p hp => ?_⟩
  rw [Nat.zero_add, h.read_sigbuf hw hp]
  simp [List.getElem?_range hp]

theorem Inv.execSubmit_answers (h : Inv s) (hp : s.phase = .submit) : ∃ t, execSubmit s = .next t := by
  unfold execSubmit
  rw [inPhase_eq hp]
  split
  · exact ⟨_, rfl⟩
  · rename_i a ha
    have hbuf := h.readRange_sigbuf (by simp [State.walked, hp])
    refine need_answers (Option.isSome_iff_exists.2 ⟨_, hbuf⟩) fun buf => ?_
    cases a <;> exact ⟨_, rfl⟩

theorem execEmit_answers (hp : s.phase = .emit) : ∃ t, execEmit s = .next t := by
  unfold execEmit
  rw [inPhase_eq hp]
  split
  · exact ⟨_, rfl⟩
  · rename_i a ha
    cases a <;> exact ⟨_, rfl⟩

theorem execIdle_of_no_command (hp : s.phase = .idle) (hv : s.ports.cmdValid = false) : execIdle s = .next s.quiet := by
  unfold execIdle
  rw [inPhase_eq hp]
  simp [hv]

theorem Inv.execPhase_answers (h : Inv s) (hv : s.phase = .idle → s.ports.cmdValid = false) :
    ∃ t, exec s.phase.toInstr s = .next t := by
  cases hp : s.phase
  case idle => exact ⟨_, execIdle_of_no_command hp (hv hp)⟩
  case claim => exact h.execClaim_answers hp
  case qfreq => exact execQfreq_answers hp
  case conv => exact h.execConv_answers hp
  case fill => exact h.execFill_answers hp
  case submit => exact h.execSubmit_answers hp
  case emit => exact execEmit_answers hp

/-- An idle block with a command on its port performs that command's accept rule (R86, R90). -/
theorem step_eq_command (hr : s.ports.rst = false) (hp : s.phase = .idle) (hv : s.ports.cmdValid = true) :
    step s = afterExec (exec (decodeCommand s.params.nPixels s.ports.cmdWord s.ports.pixData).toInstr s) := by
  have hf : fetch s = .command s.ports.cmdWord s.ports.pixData := if_pos ⟨hp, hv⟩
  unfold step
  simp [hr, hf, decode]

theorem afterExec_answers {r : Result} (hr : ∃ u, r = .next u) : ∃ t, afterExec r = .next t := by
  obtain ⟨u, rfl⟩ := hr
  exact ⟨_, rfl⟩

/-! ### What no step writes (R38), and what the hand-over leaves (R36, R60) -/

theorem fillSymbol_params {b : Bool} (hx : fillSymbol b s = .next t) : t.params = s.params := by
  obtain ⟨-, i, hi, lo, -, -, -, ⟨-, rfl⟩ | ⟨-, rfl⟩⟩ := fillSymbol_next hx <;> rfl

theorem execCommand_params {n : Nat} {c : Command n} (hx : exec c.toInstr s = .next t) : t.params = s.params := by
  cases c
  case nop => obtain ⟨-, rfl⟩ | ⟨-, rfl⟩ := execNop_next hx <;> rfl
  case init => obtain ⟨-, -, rfl⟩ | ⟨-, -, rfl⟩ | ⟨-, rfl⟩ := execInit_next hx <;> rfl
  case transmit => obtain ⟨-, -, -, rfl⟩ | ⟨-, -, -, rfl⟩ | ⟨-, rfl⟩ := execTransmit_next hx <;> rfl
  case release => obtain ⟨-, -, rfl⟩ | ⟨-, -, pin, ch, -, -, rfl⟩ | ⟨-, rfl⟩ := execRelease_next hx <;> rfl

theorem execClaim_params (hx : execClaim s = .next t) : t.params = s.params := by
  obtain ⟨-, ⟨-, rfl⟩ | ⟨a, pin, ch, div, -, -, -, -, ⟨-, rfl⟩ | ⟨-, rfl⟩⟩⟩ := execClaim_next hx <;> rfl

theorem execQfreq_params (hx : execQfreq s = .next t) : t.params = s.params := by
  obtain ⟨-, ⟨-, rfl⟩ | ⟨f, -, rfl⟩ | ⟨-, rfl⟩⟩ := execQfreq_next hx <;> rfl

theorem execConv_params (hx : execConv s = .next t) : t.params = s.params := by
  obtain ⟨-, f, -, ⟨d, -, rfl⟩ | ⟨-, rfl⟩⟩ := execConv_next hx <;> rfl

theorem execFill_params (hx : execFill s = .next t) : t.params = s.params := by
  obtain ⟨-, i, -, ⟨-, byte, -, hsym⟩ | ⟨-, rfl⟩⟩ := execFill_next hx
  · exact fillSymbol_params hsym
  · rfl

theorem execSubmit_params (hx : execSubmit s = .next t) : t.params = s.params := by
  obtain ⟨-, ⟨-, rfl⟩ | ⟨a, buf, -, -, ⟨-, rfl⟩ | ⟨-, rfl⟩⟩⟩ := execSubmit_next hx <;> rfl

theorem execEmit_params (hx : execEmit s = .next t) : t.params = s.params := by
  obtain ⟨-, ⟨-, rfl⟩ | ⟨-, rfl⟩ | ⟨-, rfl⟩⟩ := execEmit_next hx <;> rfl

/-- The registers that the pairs of a frame are read from: pixels, durations, frequency. -/
def SameOperands (s t : State) : Prop := t.pixl = s.pixl ∧ t.dur = s.dur ∧ t.freq = s.freq

theorem execSubmit_stable (hx : execSubmit s = .next t) (ht : t.phase ≠ .idle) : t.sigbuf = s.sigbuf ∧ SameOperands s t := by
  obtain ⟨-, ⟨-, rfl⟩ | ⟨a, buf, -, -, ⟨-, rfl⟩ | ⟨-, rfl⟩⟩⟩ := execSubmit_next hx
  · exact ⟨rfl, rfl, rfl, rfl⟩
  · exact ⟨rfl, rfl, rfl, rfl⟩
  · exact absurd rfl ht

theorem execEmit_stable (hx : execEmit s = .next t) (ht : t.phase ≠ .idle) : t.sigbuf = s.sigbuf ∧ SameOperands s t := by
  obtain ⟨-, ⟨-, rfl⟩ | ⟨-, rfl⟩ | ⟨-, rfl⟩⟩ := execEmit_next hx
  · exact ⟨rfl, rfl, rfl, rfl⟩
  · exact absurd rfl ht
  · exact absurd rfl ht

theorem execFill_sameOperands (hx : execFill s = .next t) (ht : t.phase ≠ .idle) : SameOperands s t := by
  obtain ⟨-, i, -, ⟨-, byte, -, hsym⟩ | ⟨-, rfl⟩⟩ := execFill_next hx
  · obtain ⟨-, i, hi, lo, -, -, -, ⟨-, rfl⟩ | ⟨-, rfl⟩⟩ := fillSymbol_next hsym
    · exact ⟨rfl, rfl, rfl⟩
    · exact absurd rfl ht
  · exact ⟨rfl, rfl, rfl⟩

/-- Without rst a busy block performs the row of its phase. -/
theorem step_busy (hs : step s = .next t) (hr : s.ports.rst = false) (hp : s.phase ≠ .idle) :
    ∃ u, t = u.nextInputs ∧ exec s.phase.toInstr s = .next u := by
  rcases step_phase hs with ⟨hr', -⟩ | ⟨-, u, ht, ⟨hi, -⟩ | ⟨hi, -⟩ | ⟨-, hu⟩⟩
  · simp [hr] at hr'
  · exact absurd hi hp
  · exact absurd hi hp
  · exact ⟨u, ht, hu⟩

/-! ### STATUS (R31) and the phase codes (R26) -/

/-- The eight bits of R31, as a function of what they show. -/
def statusWord (cause : BitVec 3) (err done busy bound : Bool) : BitVec 8 :=
  0#1 ++ cause ++ BitVec.ofBool err ++ BitVec.ofBool done ++ BitVec.ofBool busy ++ BitVec.ofBool bound

/-- Each bit of the word, over its 128 values. -/
theorem statusWord_layout : ∀ (cause : BitVec 3) (err done busy bound : Bool),
    let w := statusWord cause err done busy bound
    w.getLsbD 0 = bound ∧ w.getLsbD 1 = busy ∧ w.getLsbD 2 = done ∧ w.getLsbD 3 = err ∧ w.extractLsb' 4 3 = cause ∧
      w.getLsbD 7 = false := by
  decide

theorem State.status_layout (s : State) :
    s.status.getLsbD 0 = s.bound ∧ s.status.getLsbD 1 = s.busy ∧ s.status.getLsbD 2 = s.done ∧
      s.status.getLsbD 3 = s.err ∧ s.status.extractLsb' 4 3 = s.cause.code ∧ s.status.getLsbD 7 = false :=
  statusWord_layout ..

theorem cause_code_injective {c d : Cause} : c.code = d.code → c = d := by cases c <;> cases d <;> decide

/-- Where Inv holds CAUSE fits BOUND. -/
theorem Inv.cause_fits (h : Inv s) : causeFits s.bound s.cause = true := by
  have hbound := h.cause_bound
  cases hc : s.cause <;> simp only [hc] at hbound
  case none => rfl
  case claim => rfl
  case freq => exact hbound (by simp)
  case conv => exact hbound (by simp)
  case txStart => exact hbound (by simp)
  case txFault => exact hbound (by simp)
  case notBound => simp [causeFits, h.cause_unbound hc]
  case index => exact absurd hc h.cause_not_index

/-- A STATUS that shows the code of a cause which does not fit the BOUND it shows is not seen where Inv holds. -/
theorem Inv.status_ne (h : Inv s) {w : BitVec 8} (c : Cause) (hc : w.extractLsb' 4 3 = c.code)
    (hfit : causeFits (w.getLsbD 0) c = false) : s.status ≠ w := by
  rintro rfl
  obtain ⟨hbound, -, -, -, hcause, -⟩ := s.status_layout
  obtain rfl : s.cause = c := cause_code_injective (hcause.symm.trans hc)
  rw [hbound, h.cause_fits] at hfit
  cases hfit

theorem decodePhase_eq_ok {c : BitVec 3} {p : Phase} (h : decodePhase c = .ok p) : c = p.code := by
  unfold decodePhase at h
  split at h <;> cases h <;> exact BitVec.eq_of_toNat_eq ‹_›

end Sys2Proof.Machine

/-! ### The statements of 10_state.md -/

namespace Sys2Proof.Machine

/-- Settles O37: one lemma for each row of R104, the reset and the idle step included. -/
theorem stepKeepsInvariants : Obligations.StepKeepsInvariants := by
  intro s t h hs
  rcases step_rows hs with ⟨-, rfl⟩ | ⟨-, u, rfl, hu⟩
  · exact (inv_applyReset h.params_wf).nextInputs
  · refine Inv.nextInputs ?_
    rcases hu with ⟨-, -, rfl⟩ | ⟨-, -, hx⟩ | ⟨-, hx⟩ | ⟨-, hx⟩ | ⟨-, hx⟩ | ⟨-, hx⟩ | ⟨-, hx⟩ | ⟨-, hx⟩
    · exact h.quiet
    · exact h.after_execCommand hx
    · exact h.after_execClaim hx
    · exact h.after_execQfreq hx
    · exact h.after_execConv hx
    · exact h.after_execFill hx
    · exact h.after_execSubmit hx
    · exact h.after_execEmit hx

/-- Settles O38: the reset always answers, and so does the command on the port and each phase's row. -/
theorem invariantStepAnswers : Obligations.InvariantStepAnswers := by
  intro s h
  cases hr : s.ports.rst
  · by_cases hc : s.phase = .idle ∧ s.ports.cmdValid = true
    · rw [step_eq_command hr hc.1 hc.2]
      exact afterExec_answers (h.execCommand_answers _)
    · have hv : s.phase = .idle → s.ports.cmdValid = false := fun hp => Bool.eq_false_iff.2 fun hv => hc ⟨hp, hv⟩
      rw [step_eq_phase hr hv]
      exact afterExec_answers (h.execPhase_answers hv)
  · exact ⟨_, if_pos hr⟩

/-- Settles O42: no row of R104 writes the parameters, and a reset keeps them. -/
theorem parametersNeverChange : Obligations.ParametersNeverChange := by
  intro s t hs
  rcases step_rows hs with ⟨-, rfl⟩ | ⟨-, u, rfl, hu⟩ <;> rw [State.nextInputs_params]
  · rfl
  · rcases hu with ⟨-, -, rfl⟩ | ⟨-, -, hx⟩ | ⟨-, hx⟩ | ⟨-, hx⟩ | ⟨-, hx⟩ | ⟨-, hx⟩ | ⟨-, hx⟩ | ⟨-, hx⟩
    · rfl
    · exact execCommand_params hx
    · exact execClaim_params hx
    · exact execQfreq_params hx
    · exact execConv_params hx
    · exact execFill_params hx
    · exact execSubmit_params hx
    · exact execEmit_params hx

/-- Settles O44: the rows of SUBMIT, EMIT and FILL write PIXL, DUR, FREQ only when they complete, the first two SIGBUF too. -/
theorem bufferStableDuringHandOver : Obligations.BufferStableDuringHandOver := by
  intro s t hr hs ht
  constructor
  · rintro (hp | hp)
    · obtain ⟨u, rfl, hu⟩ := step_busy hs hr (by simp [hp])
      rw [hp] at hu
      simpa [SameOperands] using execSubmit_stable hu (by simpa using ht)
    · obtain ⟨u, rfl, hu⟩ := step_busy hs hr (by simp [hp])
      rw [hp] at hu
      simpa [SameOperands] using execEmit_stable hu (by simpa using ht)
  · intro hp
    obtain ⟨u, rfl, hu⟩ := step_busy hs hr (by simp [hp])
    rw [hp] at hu
    simpa [SameOperands] using execFill_sameOperands hu (by simpa using ht)

/-- Settles O48: the clauses (i), (j), (k) of R42 on the bits of STATUS, and the causes that do not fit BOUND. -/
theorem statusValuesNeverShown : Obligations.StatusValuesNeverShown := by
  intro s h
  obtain ⟨-, hbusy, hdone, herr, hcause, -⟩ := s.status_layout
  rw [hbusy, hdone, herr, hcause]
  refine ⟨fun ⟨hb, hd⟩ => ?_, fun ⟨he, hd⟩ => ?_, fun ⟨hc, he⟩ => hc ?_, h.status_ne .notBound rfl rfl, h.status_ne .freq rfl rfl,
    h.status_ne .conv rfl rfl, h.status_ne .txStart rfl rfl, h.status_ne .txFault rfl rfl, h.status_ne .index rfl rfl⟩
  · exact of_decide_eq_true hb (h.done_idle hd)
  · simp [h.err_done he] at hd
  · rw [h.err_cause he]; rfl

/-- Settles O4: `decode_phase` one way, `decodePhase_eq_ok` the other. -/
theorem phaseCodesDecode : Obligations.PhaseCodesDecode := ⟨decode_phase, fun _ _ => decodePhase_eq_ok, fun _ => rfl⟩

/-- Settles O8: the bits of `statusWord`, and the eight codes. -/
theorem statusLayout : Obligations.StatusLayout := ⟨State.status_layout, rfl⟩

/-- Settles O15: the values written out in State.resetWith and Params.reference. -/
theorem resetStateValues : Obligations.ResetStateValues := by
  unfold Obligations.ResetStateValues
  decide

/-- Settles O36: nothing is held, nothing was offered. -/
theorem resetMeetsInvariants : Obligations.ResetMeetsInvariants :=
  ⟨inv_resetWith rfl, fun _ hbuf => absurd hbuf List.not_mem_nil, rfl, rfl⟩

end Sys2Proof.Machine

/-! PROOFS. The two memories under the rows of R104, what a step offers, the layout of the completed buffer, what the pin carries
of a start, and the statements of 20_memory.md. -/

namespace Sys2Proof.Machine

variable {s t : State}

/-! ### The canonical form of the memories (log 19) -/

theorem memoriesCanonical_ended (e : Bool) (c : Cause) : MemoriesCanonical (s.ended e c) := ⟨rfl, rfl⟩

theorem MemoriesCanonical.nextInputs (h : MemoriesCanonical s) : MemoriesCanonical s.nextInputs := by
  simpa [MemoriesCanonical] using h

theorem MemoriesCanonical.after_execCommand {n : Nat} {c : Command n} (h : MemoriesCanonical s)
    (hx : exec c.toInstr s = .next t) : MemoriesCanonical t := by
  cases c
  case nop =>
    obtain ⟨-, rfl⟩ | ⟨-, rfl⟩ := execNop_next hx
    · exact memoriesCanonical_ended _ _
    · exact h
  case init =>
    obtain ⟨-, -, rfl⟩ | ⟨-, -, rfl⟩ | ⟨-, rfl⟩ := execInit_next hx
    · exact memoriesCanonical_ended _ _
    · exact h
    · exact h
  case transmit =>
    obtain ⟨-, -, -, rfl⟩ | ⟨-, -, -, rfl⟩ | ⟨-, rfl⟩ := execTransmit_next hx
    · exact memoriesCanonical_ended _ _
    · exact ⟨Memory.wf_ofList _ _, h.2⟩
    · exact h
  case release =>
    obtain ⟨-, -, rfl⟩ | ⟨-, -, pin, ch, -, -, rfl⟩ | ⟨-, rfl⟩ := execRelease_next hx
    · exact memoriesCanonical_ended _ _
    · exact memoriesCanonical_ended _ _
    · exact h

theorem MemoriesCanonical.after_execClaim (h : MemoriesCanonical s) (hx : execClaim s = .next t) : MemoriesCanonical t := by
  obtain ⟨-, ⟨-, rfl⟩ | ⟨a, pin, ch, div, -, -, -, -, ⟨-, rfl⟩ | ⟨-, rfl⟩⟩⟩ := execClaim_next hx
  · exact h
  · exact memoriesCanonical_ended _ _
  · exact memoriesCanonical_ended _ _

theorem MemoriesCanonical.after_execQfreq (h : MemoriesCanonical s) (hx : execQfreq s = .next t) : MemoriesCanonical t := by
  obtain ⟨-, ⟨-, rfl⟩ | ⟨f, -, rfl⟩ | ⟨-, rfl⟩⟩ := execQfreq_next hx
  · exact h
  · exact h
  · exact memoriesCanonical_ended _ _

theorem MemoriesCanonical.after_execConv (h : MemoriesCanonical s) (hx : execConv s = .next t) : MemoriesCanonical t := by
  obtain ⟨-, f, -, ⟨d, -, rfl⟩ | ⟨-, rfl⟩⟩ := execConv_next hx
  · exact h
  · exact memoriesCanonical_ended _ _

/-- The one row that writes a slot of SIGBUF (R148). -/
theorem MemoriesCanonical.after_fillSymbol {b : Bool} (h : MemoriesCanonical s) (hx : fillSymbol b s = .next t) :
    MemoriesCanonical t := by
  obtain ⟨-, i, hi, lo, -, -, -, ⟨-, rfl⟩ | ⟨-, rfl⟩⟩ := fillSymbol_next hx
  · exact ⟨h.1, Memory.wf_write _ _ h.2⟩
  · exact memoriesCanonical_ended _ _

theorem MemoriesCanonical.after_execFill (h : MemoriesCanonical s) (hx : execFill s = .next t) : MemoriesCanonical t := by
  obtain ⟨-, i, -, ⟨-, byte, -, hsym⟩ | ⟨-, rfl⟩⟩ := execFill_next hx
  · have hquiet : MemoriesCanonical s.quiet := h
    exact hquiet.after_fillSymbol hsym
  · exact h

theorem MemoriesCanonical.after_execSubmit (h : MemoriesCanonical s) (hx : execSubmit s = .next t) : MemoriesCanonical t := by
  obtain ⟨-, ⟨-, rfl⟩ | ⟨a, buf, -, -, ⟨-, rfl⟩ | ⟨-, rfl⟩⟩⟩ := execSubmit_next hx
  · exact h
  · exact h
  · exact memoriesCanonical_ended _ _

theorem MemoriesCanonical.after_execEmit (h : MemoriesCanonical s) (hx : execEmit s = .next t) : MemoriesCanonical t := by
  obtain ⟨-, ⟨-, rfl⟩ | ⟨-, rfl⟩ | ⟨-, rfl⟩⟩ := execEmit_next hx
  · exact h
  · exact memoriesCanonical_ended _ _
  · exact memoriesCanonical_ended _ _

/-! ### What a step offers to the peripheral (R64, R65, R108) -/

/-- From `s` to `t` the trace only grows, and a Start in what it gains comes from SUBMIT with the whole of SIGBUF. -/
def OffersSigbuf (s t : State) : Prop :=
  ∃ es, t.trace = s.trace ++ es ∧
    ∀ buf, Event.start buf ∈ es → s.phase = .submit ∧ Memory.readRange s.sigbuf 0 s.slots = some buf

theorem offersSigbuf_of_no_start {es : List Event} (h : t.trace = s.trace ++ es) (hes : ∀ buf, Event.start buf ∉ es) :
    OffersSigbuf s t := ⟨es, h, fun buf hbuf => absurd hbuf (hes buf)⟩

theorem offersSigbuf_of_trace_eq (h : t.trace = s.trace) : OffersSigbuf s t :=
  offersSigbuf_of_no_start (es := []) (by simpa using h) (by simp)

/-- A reset in SUBMIT leaves the request in the trace (R201; log 5). -/
theorem start_mem_inFlight {buf : List Pair} (h : Event.start buf ∈ s.inFlight) :
    s.phase = .submit ∧ Memory.readRange s.sigbuf 0 s.slots = some buf := by
  cases hp : s.phase <;> simp only [State.inFlight, hp] at h
  case submit =>
    refine ⟨rfl, ?_⟩
    split at h
    · rename_i held hheld
      obtain rfl : buf = held := by simpa using h
      exact hheld
    · exact absurd h List.not_mem_nil
  case claim => split at h <;> simp at h
  all_goals simp at h

theorem offersSigbuf_applyReset (s : State) : OffersSigbuf s s.applyReset := ⟨s.inFlight, rfl, fun _ => start_mem_inFlight⟩

theorem execCommand_offersSigbuf {n : Nat} {c : Command n} (hx : exec c.toInstr s = .next t) : OffersSigbuf s t := by
  cases c
  case nop =>
    obtain ⟨-, rfl⟩ | ⟨-, rfl⟩ := execNop_next hx <;> exact offersSigbuf_of_trace_eq rfl
  case init =>
    obtain ⟨-, -, rfl⟩ | ⟨-, -, rfl⟩ | ⟨-, rfl⟩ := execInit_next hx <;> exact offersSigbuf_of_trace_eq rfl
  case transmit =>
    obtain ⟨-, -, -, rfl⟩ | ⟨-, -, -, rfl⟩ | ⟨-, rfl⟩ := execTransmit_next hx <;> exact offersSigbuf_of_trace_eq rfl
  case release =>
    obtain ⟨-, -, rfl⟩ | ⟨-, -, pin, ch, -, -, rfl⟩ | ⟨-, rfl⟩ := execRelease_next hx
    · exact offersSigbuf_of_trace_eq rfl
    · exact offersSigbuf_of_no_start (es := [.release pin ch]) rfl (by simp)
    · exact offersSigbuf_of_trace_eq rfl

theorem execClaim_offersSigbuf (hx : execClaim s = .next t) : OffersSigbuf s t := by
  obtain ⟨-, ⟨-, rfl⟩ | ⟨a, pin, ch, div, -, -, -, -, ⟨-, rfl⟩ | ⟨-, rfl⟩⟩⟩ := execClaim_next hx
  · exact offersSigbuf_of_trace_eq rfl
  · exact offersSigbuf_of_no_start (es := [.claim pin ch div, .claimAns a]) rfl (by simp)
  · exact offersSigbuf_of_no_start (es := [.claim pin ch div, .claimAns a]) rfl (by simp)

theorem execQfreq_offersSigbuf (hx : execQfreq s = .next t) : OffersSigbuf s t := by
  obtain ⟨-, ⟨-, rfl⟩ | ⟨f, -, rfl⟩ | ⟨-, rfl⟩⟩ := execQfreq_next hx
  · exact offersSigbuf_of_trace_eq rfl
  · exact offersSigbuf_of_no_start (es := [.freqQuery, .freqAns (.ok f)]) rfl (by simp)
  · exact offersSigbuf_of_no_start (es := [.freqQuery, .freqAns .err]) rfl (by simp)

theorem execConv_trace (hx : execConv s = .next t) : t.trace = s.trace := by
  obtain ⟨-, f, -, ⟨d, -, rfl⟩ | ⟨-, rfl⟩⟩ := execConv_next hx <;> rfl

theorem execFill_trace (hx : execFill s = .next t) : t.trace = s.trace := by
  obtain ⟨-, i, -, ⟨-, byte, -, hsym⟩ | ⟨-, rfl⟩⟩ := execFill_next hx
  · obtain ⟨-, i, hi, lo, -, -, -, ⟨-, rfl⟩ | ⟨-, rfl⟩⟩ := fillSymbol_next hsym <;> rfl
  · rfl

/-- The row that offers: the buffer recorded is the one that was read (R155). -/
theorem execSubmit_offersSigbuf (hx : execSubmit s = .next t) : OffersSigbuf s t := by
  obtain ⟨hp, ⟨-, rfl⟩ | ⟨a, buf, -, hbuf, ht⟩⟩ := execSubmit_next hx
  · exact offersSigbuf_of_trace_eq rfl
  · refine ⟨[.start buf, .startAns a], ?_, fun held hheld => ⟨hp, ?_⟩⟩
    · obtain ⟨-, rfl⟩ | ⟨-, rfl⟩ := ht <;> rfl
    · obtain rfl : held = buf := by simpa using hheld
      exact hbuf

theorem execEmit_offersSigbuf (hx : execEmit s = .next t) : OffersSigbuf s t := by
  obtain ⟨-, ⟨-, rfl⟩ | ⟨-, rfl⟩ | ⟨-, rfl⟩⟩ := execEmit_next hx
  · exact offersSigbuf_of_trace_eq rfl
  · exact offersSigbuf_of_no_start (es := [.doneAns .ok]) rfl (by simp)
  · exact offersSigbuf_of_no_start (es := [.doneAns .err]) rfl (by simp)

theorem step_offersSigbuf (hs : step s = .next t) : OffersSigbuf s t := by
  have hinputs {u : State} (h : OffersSigbuf s u) : OffersSigbuf s u.nextInputs := by simpa [OffersSigbuf] using h
  rcases step_rows hs with ⟨-, rfl⟩ | ⟨-, u, rfl, hu⟩
  · exact hinputs (offersSigbuf_applyReset s)
  · refine hinputs ?_
    rcases hu with ⟨-, -, rfl⟩ | ⟨-, -, hx⟩ | ⟨-, hx⟩ | ⟨-, hx⟩ | ⟨-, hx⟩ | ⟨-, hx⟩ | ⟨-, hx⟩ | ⟨-, hx⟩
    · exact offersSigbuf_of_trace_eq rfl
    · exact execCommand_offersSigbuf hx
    · exact execClaim_offersSigbuf hx
    · exact execQfreq_offersSigbuf hx
    · exact offersSigbuf_of_trace_eq (execConv_trace hx)
    · exact offersSigbuf_of_trace_eq (execFill_trace hx)
    · exact execSubmit_offersSigbuf hx
    · exact execEmit_offersSigbuf hx

/-! ### The layout of the completed buffer (R52, R54 to R56) -/

/-- Stream position 24i + 8c + (7 - k) carries bit k of channel c of pixel i (R57, R135). -/
theorem streamBit_slot {px : List Color} {i c k : Nat} {col : Color} (hcol : px[i]? = some col) (hc : c < 3) (hk : k < 8) :
    streamBit px (24 * i + 8 * c + (7 - k)) = (chan col c).getLsbD k := by
  have hpix : (24 * i + 8 * c + (7 - k)) / 24 = i := by omega
  have hchan : (24 * i + 8 * c + (7 - k)) % 24 / 8 = c := by omega
  have hbit : 7 - (24 * i + 8 * c + (7 - k)) % 8 = k := by omega
  rw [streamBit, hpix, hchan, hbit, List.getD_eq_getElem?_getD, hcol, xbit, Option.getD_some]

/-- PAIR0 and PAIR1 exist where DUR holds a record (R34, R118). -/
theorem pairs_of_ofDurations {d : Durations} (h : s.dur = DurFile.ofDurations d) :
    s.pair0? = some (pair0 d) ∧ s.pair1? = some (pair1 d) := by
  constructor
  · rw [State.pair0?, h]; rfl
  · rw [State.pair1?, h]; rfl

/-- A full latch holds a colour at each pixel number, that of the pixel sequence. -/
theorem exists_pixel {n i : Nat} (h : s.pixl.map Prod.fst = List.range n) (hi : i < n) :
    ∃ col, Memory.read s.pixl i = some col ∧ s.pixels[i]? = some col := by
  obtain ⟨hm, hlen⟩ := pixl_eq_ofList h
  have hcol : s.pixels[i]? = some (s.pixels[i]'(hlen ▸ hi)) := List.getElem?_eq_getElem _
  refine ⟨_, ?_, hcol⟩
  rw [hm, Memory.read_ofList, if_pos (Nat.zero_le i), Nat.sub_zero, hcol]

/-! ### What the pin carried of a start (R65, R177) -/

theorem carriedFrom_cons_of_ne_start {k : Nat} {e : Event} (he : ∀ buf, e ≠ .start buf) (es : List Event) :
    carriedFrom k (e :: es) = carriedFrom (k + 1) es := by
  cases e
  case start buf => exact absurd rfl (he buf)
  all_goals rfl

/-- One entry for each start, by what follows it in the trace. -/
theorem carriedFrom_cons_start (k : Nat) (buf : List Pair) (es : List Event) :
    ∃ w, carriedFrom k (.start buf :: es) = w :: carriedFrom (k + 1) es ∧
      (∀ rest, es = .startAns .err :: rest → w = []) ∧
      (∀ a rest, es = .startAns .ok :: .doneAns a :: rest → w <+: wave buf ∧ (a = .ok → w = wave buf)) := by
  rw [carriedFrom.eq_def]
  dsimp only
  split
  case h_1 rest => exact ⟨_, rfl, by simp, by simp⟩
  case h_2 rest => exact ⟨_, rfl, by simp, by simp [List.take_prefix]⟩
  case h_3 rest => exact ⟨_, rfl, by simp, by simp⟩
  case h_4 h1 h2 h3 =>
    refine ⟨_, rfl, fun rest h => absurd h (h3 rest), fun a rest h => ?_⟩
    cases a
    · exact absurd h (h1 rest)
    · exact absurd h (h2 rest)

/-- Every start of the trace was refused, or accepted and its completion answered. -/
def StartsSettled (es : List Event) : Prop :=
  ∀ pre buf post, es = pre ++ .start buf :: post →
    (∃ rest, post = .startAns .err :: rest) ∨ ∃ a rest, post = .startAns .ok :: .doneAns a :: rest

theorem StartsSettled.tail {e : Event} {es : List Event} (h : StartsSettled (e :: es)) : StartsSettled es :=
  fun pre buf post hes => h (e :: pre) buf post (by rw [hes, List.cons_append])

theorem carriedFrom_prefix {k : Nat} {es : List Event} (h : StartsSettled es) :
    ∀ w ∈ carriedFrom k es, ∃ buf, Event.start buf ∈ es ∧ w <+: wave buf := by
  induction es generalizing k with
  | nil => exact fun w hw => absurd hw List.not_mem_nil
  | cons e es ih =>
    have hlater : ∀ w ∈ carriedFrom (k + 1) es, ∃ buf, Event.start buf ∈ e :: es ∧ w <+: wave buf := fun w hw => by
      obtain ⟨buf, hbuf, hpre⟩ := ih h.tail w hw
      exact ⟨buf, List.mem_cons_of_mem _ hbuf, hpre⟩
    by_cases he : ∃ buf, e = .start buf
    · obtain ⟨buf, rfl⟩ := he
      obtain ⟨w₀, hcons, hrefused, hanswered⟩ := carriedFrom_cons_start k buf es
      have hpre : w₀ <+: wave buf := by
        rcases h [] buf es rfl with ⟨rest, hes⟩ | ⟨a, rest, hes⟩
        · rw [hrefused rest hes]; exact List.nil_prefix
        · exact (hanswered a rest hes).1
      rw [hcons]
      exact List.forall_mem_cons.2 ⟨⟨buf, List.mem_cons_self, hpre⟩, hlater⟩
    · rw [carriedFrom_cons_of_ne_start (not_exists.1 he)]
      exact hlater

theorem carriedFrom_of_no_start {k : Nat} {es : List Event} (h : ∀ buf, Event.start buf ∉ es) : carriedFrom k es = [] := by
  induction es generalizing k with
  | nil => rfl
  | cons e es ih =>
    rw [carriedFrom_cons_of_ne_start fun buf he => h buf (he ▸ List.mem_cons_self)]
    exact ih fun buf hbuf => h buf (List.mem_cons_of_mem _ hbuf)

/-! ### The statements of 20_memory.md -/

/-- Settles O40: TRANSMIT loads PIXL, FILL writes SIGBUF, a completion and a reset empty both, no other row touches them. -/
theorem memoriesStayCanonical : Obligations.MemoriesStayCanonical := by
  intro s t h hs
  rcases step_rows hs with ⟨-, rfl⟩ | ⟨-, u, rfl, hu⟩
  · have hreset : MemoriesCanonical s.applyReset := ⟨rfl, rfl⟩
    exact hreset.nextInputs
  · refine MemoriesCanonical.nextInputs ?_
    rcases hu with ⟨-, -, rfl⟩ | ⟨-, -, hx⟩ | ⟨-, hx⟩ | ⟨-, hx⟩ | ⟨-, hx⟩ | ⟨-, hx⟩ | ⟨-, hx⟩ | ⟨-, hx⟩
    · exact h
    · exact h.after_execCommand hx
    · exact h.after_execClaim hx
    · exact h.after_execQfreq hx
    · exact h.after_execConv hx
    · exact h.after_execFill hx
    · exact h.after_execSubmit hx
    · exact h.after_execEmit hx

/-- Settles O47: `step_offersSigbuf`, and what reading a whole range means. -/
theorem bufferOfferedOnlyFromSubmit : Obligations.BufferOfferedOnlyFromSubmit := by
  intro s t hs
  obtain ⟨es, htrace, hstart⟩ := step_offersSigbuf hs
  refine ⟨es, htrace, fun buf hbuf => ?_⟩
  obtain ⟨hp, hrange⟩ := hstart buf hbuf
  obtain ⟨hlen, hread⟩ := Memory.readRange_eq_some.1 hrange
  exact ⟨hp, hlen, by simpa [State.slots] using hread⟩

/-- Settles O55: the walk is over, so `Inv.read_sigbuf` gives each slot the pair of its stream bit. -/
theorem completedBufferLayout : Obligations.CompletedBufferLayout := by
  intro s h hp i hi
  have htx : transmittingPhase s.phase = true := by rcases hp with hp | hp <;> rw [hp] <;> rfl
  have hdurPhase : durPhase s.phase = true := by rcases hp with hp | hp <;> rw [hp] <;> rfl
  have hwalked : s.walked = s.slots := by rcases hp with hp | hp <;> simp [State.walked, hp]
  obtain ⟨col, hlatch, hcol⟩ := exists_pixel (by simpa [htx] using h.pixl_held) hi
  obtain ⟨f, d, -, -, hd⟩ := h.transmit.exists_durations hdurPhase
  obtain ⟨hpair0, hpair1⟩ := pairs_of_ofDurations hd
  have hslot {c k : Nat} (hc : c < 3) (hk : k < 8) : Memory.read s.sigbuf (24 * i + 8 * c + (7 - k)) =
      some (if (chan col c).getLsbD k then pair1 d else pair0 d) := by
    rw [h.read_sigbuf hwalked (by unfold State.slots; omega), streamBit_slot hcol hc hk, hd, values_ofDurations, selp]
  exact ⟨col, pair0 d, pair1 d, hlatch, hpair0, hpair1, fun k hk =>
    ⟨hslot (c := 0) (by decide) hk, hslot (c := 1) (by decide) hk, hslot (c := 2) (by decide) hk⟩⟩

/-- Settles O58: the entry of each start, and two inductions over the trace. -/
theorem pinCarriesPrefixes : Obligations.PinCarriesPrefixes :=
  ⟨carriedFrom_cons_start, fun _ _ h => carriedFrom_prefix h, fun _ _ h => carriedFrom_of_no_start h⟩

end Sys2Proof.Machine

/-! PROOFS. The three formats of the opcode table and their decoder, the pixel operand, the rows of the table, the pair word, the
symbols of a FILL step, what a step shows on the response port, and the statements of 30_encoding.md. -/

namespace Sys2Proof

/-! ### The command word (R71, R76) -/

/-- OP in bits 1:0 selects the command; INIT takes bits 7:2 and 11:8. -/
theorem decodeCommand_eq (n : Nat) (w : BitVec 16) (pix : Nat) :
    decodeCommand n w pix =
      if w.toNat % 4 = 0 then .nop
      else if w.toNat % 4 = 1 then .init (BitVec.ofNat 6 (w.toNat / 4)) (BitVec.ofNat 4 (w.toNat / 256))
      else if w.toNat % 4 = 2 then .transmit (unpackPixels n pix)
      else .release := by
  have hop : (w.extractLsb' 0 2).toNat = w.toNat % 4 := by simp
  have hpinf : w.extractLsb' 2 6 = BitVec.ofNat 6 (w.toNat / 4) := by simp [BitVec.extractLsb', Nat.shiftRight_eq_div_pow]
  have hchf : w.extractLsb' 8 4 = BitVec.ofNat 4 (w.toNat / 256) := by simp [BitVec.extractLsb', Nat.shiftRight_eq_div_pow]
  unfold decodeCommand
  rw [hop, hpinf, hchf]
  obtain h | h | h | h : w.toNat % 4 = 0 ∨ w.toNat % 4 = 1 ∨ w.toNat % 4 = 2 ∨ w.toNat % 4 = 3 := by omega
  all_goals simp [h]

/-- INIT's word has OP = 1 in its low end, then PINF, then CHF. -/
theorem decodeCommand_initWord (n : Nat) (pinf : PinField) (chf : ChField) (pix : Nat) :
    decodeCommand n (0#4 ++ chf ++ pinf ++ 1#2) pix = .init pinf chf := by
  have hop : (0#4 ++ chf ++ pinf ++ 1#2).extractLsb' 0 2 = 1#2 := BitVec.extractLsb'_append_eq_right
  have hpinf : (0#4 ++ chf ++ pinf ++ 1#2).extractLsb' 2 6 = pinf := by
    rw [BitVec.extractLsb'_append_eq_of_le (by decide)]
    exact BitVec.extractLsb'_append_eq_right
  have hchf : (0#4 ++ chf ++ pinf ++ 1#2).extractLsb' 8 4 = chf := by
    rw [BitVec.extractLsb'_append_eq_of_le (by decide), BitVec.extractLsb'_append_eq_of_le (by decide)]
    exact BitVec.extractLsb'_append_eq_right
  unfold decodeCommand
  rw [hop, hpinf, hchf]
  rfl

/-! ### The pixel operand (R72, R79) -/

theorem colorOfWord_wordOfColor (c : Color) : colorOfWord (wordOfColor c) = c := by
  obtain ⟨r, g, b⟩ := c
  have hred : (r ++ g ++ b).extractLsb' 16 8 = r := by
    rw [BitVec.extractLsb'_append_eq_of_le (by decide)]
    exact BitVec.extractLsb'_append_eq_left
  have hgreen : (r ++ g ++ b).extractLsb' 8 8 = g := by
    rw [BitVec.extractLsb'_append_eq_of_le (by decide)]
    exact BitVec.extractLsb'_append_eq_right
  have hblue : (r ++ g ++ b).extractLsb' 0 8 = b := BitVec.extractLsb'_append_eq_right
  exact Color.mk.injEq .. ▸ ⟨hred, hgreen, hblue⟩

/-- The 24 bits from bit 24i on of a packed list are the pixel word of colour i. -/
theorem packPixels_word {px : List Color} {i : Nat} (h : i < px.length) :
    BitVec.ofNat 24 (packPixels px >>> (24 * i)) = wordOfColor px[i] := by
  induction px generalizing i with
  | nil => simp at h
  | cons c cs ih =>
    have hlt := (wordOfColor c).isLt
    rw [packPixels_cons]
    cases i with
    | zero =>
      apply BitVec.eq_of_toNat_eq
      simp only [BitVec.toNat_ofNat, List.getElem_cons_zero, Nat.mul_zero, Nat.shiftRight_zero]
      omega
    | succ i =>
      have hrest : ((wordOfColor c).toNat + 2 ^ 24 * packPixels cs) >>> (24 * (i + 1)) = packPixels cs >>> (24 * i) := by
        rw [Nat.mul_succ, Nat.add_comm _ 24, Nat.shiftRight_add, Nat.shiftRight_eq_div_pow _ 24,
          Nat.add_mul_div_left _ _ (Nat.two_pow_pos 24), Nat.div_eq_of_lt hlt, Nat.zero_add]
      rw [hrest, List.getElem_cons_succ, ih]

/-- A byte of the pixel word of colour i is a byte of the port. -/
theorem pixelWord_byte (pix i : Nat) {k : Nat} (hk : k + 8 ≤ 24) :
    (BitVec.ofNat 24 (pix >>> (24 * i))).extractLsb' k 8 = BitVec.ofNat 8 (pix / 2 ^ (24 * i + k)) := by
  rw [← Nat.shiftRight_eq_div_pow, Nat.shiftRight_add]
  refine BitVec.eq_of_getLsbD_eq fun j hj => ?_
  have hlt : k + j < 24 := by omega
  simp only [BitVec.getLsbD_extractLsb', BitVec.getLsbD_ofNat, Nat.testBit_shiftRight, hj, hlt, decide_true,
    Bool.true_and]

theorem unpackPixels_packPixels {n : Nat} (px : Vector Color n) : unpackPixels n (packPixels px.toList) = px := by
  ext1 i hi
  rw [getElem_unpackPixels, packPixels_word (by simpa using hi), colorOfWord_wordOfColor, Vector.getElem_toList]

/-! ### The rows of the table (R87) -/

/-- The rows of opcode_table.json, in the order of the constructors of `Instr`. -/
def opcodeTable : List TableRow :=
  [⟨0, 3, 0⟩, ⟨0, 3, 1⟩, ⟨0, 3, 2⟩, ⟨0, 3, 3⟩, ⟨1, 1, 0⟩, ⟨1, 1, 1⟩, ⟨2, 7, 0⟩, ⟨2, 7, 1⟩, ⟨2, 7, 2⟩, ⟨2, 7, 3⟩, ⟨2, 7, 4⟩,
    ⟨2, 7, 5⟩, ⟨2, 7, 6⟩]

theorem opcodeTable_ctorIdx (i : Instr) : opcodeTable[i.ctorIdx]? = some i.row := by cases i <;> rfl

/-- The rows are pairwise different, so a row is the row of one constructor. -/
theorem row_eq_row_iff {i j : Instr} : i.row = j.row ↔ i.ctorIdx = j.ctorIdx := by
  rw [← Option.some_inj, ← opcodeTable_ctorIdx, ← opcodeTable_ctorIdx]
  have hi : i.ctorIdx < opcodeTable.length := (List.getElem?_eq_some_iff.1 (opcodeTable_ctorIdx i)).1
  exact List.getElem?_inj hi (by decide)

/-- The bits of a format that its rows are matched on: the mask is the format's, the same in all its rows. -/
def formatMask : Nat → Nat
  | 0 => 3
  | 1 => 1
  | _ => 7

/-- The one row that can match a code: the code's format, and the masked bits of the code. -/
def Code.ownRow (c : Code) : TableRow := ⟨c.format, formatMask c.format, c.bits &&& formatMask c.format⟩

theorem row_mask (i : Instr) : i.row.mask = formatMask i.row.format := by cases i <;> rfl

theorem matches_iff_eq_ownRow {i : Instr} {c : Code} : i.row.matches c = true ↔ i.row = c.ownRow := by
  simp only [TableRow.matches, Bool.and_eq_true, beq_iff_eq, row_mask]
  constructor
  · rintro ⟨hformat, hpat⟩
    calc i.row = ⟨i.row.format, formatMask i.row.format, i.row.pat⟩ := by rw [← row_mask]
      _ = c.ownRow := by rw [← hpat, ← hformat, Code.ownRow]
  · intro h
    rw [h]
    exact ⟨rfl, rfl⟩

theorem row_decodeCommand (n : Nat) (w : BitVec 16) (pix : Nat) :
    (decodeCommand n w pix).toInstr.row = (Code.command w pix).ownRow := by
  have hop : (Code.command w pix).ownRow = ⟨0, 3, w.toNat % 4⟩ :=
    congrArg (TableRow.mk 0 3) (Nat.and_two_pow_sub_one_eq_mod w.toNat 2)
  rw [hop, decodeCommand_eq]
  obtain h | h | h | h : w.toNat % 4 = 0 ∨ w.toNat % 4 = 1 ∨ w.toNat % 4 = 2 ∨ w.toNat % 4 = 3 := by omega
  all_goals simp [h, Command.toInstr, Instr.row]

theorem row_decodeSymbol : ∀ bit : BitVec 1, (decodeSymbol bit).row = (Code.symbol bit).ownRow := by decide

theorem row_phase (p : Phase) : p.toInstr.row = (Code.phase p.code).ownRow := by cases p <;> rfl

theorem decode_phase_eq_ok {n : Nat} {code : BitVec 3} {k : Instr} (h : decode n (.phase code) = .ok k) :
    ∃ p : Phase, code = p.code ∧ k = p.toInstr := by
  simp only [decode] at h
  split at h
  case h_1 p hp => cases h; exact ⟨p, Machine.decodePhase_eq_ok hp, rfl⟩
  case h_2 => cases h

/-- What a code decodes to has the row that matches the code. -/
theorem row_of_decode {n : Nat} {c : Code} {k : Instr} (h : decode n c = .ok k) : k.row = c.ownRow := by
  cases c with
  | command w pix => cases h; exact row_decodeCommand n w pix
  | symbol bit => cases h; exact row_decodeSymbol bit
  | phase code => obtain ⟨p, rfl, rfl⟩ := decode_phase_eq_ok h; exact row_phase p

end Sys2Proof

namespace Sys2Proof.Machine

variable {s t : State}

/-! ### The pair word (R73, R74) -/

theorem pulseWord_low (w d : Nat) : pulseWord w ⟨.low, d⟩ = d := by simp [pulseWord, levelBit]

theorem pulseWord_high (w d : Nat) : pulseWord w ⟨.high, d⟩ = 2 ^ w ||| d := by simp [pulseWord, levelBit, Nat.one_shiftLeft]

/-! ### What a step decodes (R86, R28) -/

theorem fetch_of_command (hp : s.phase = .idle) (hv : s.ports.cmdValid = true) :
    fetch s = .command s.ports.cmdWord s.ports.pixData := if_pos ⟨hp, hv⟩

theorem fetch_of_no_command (h : s.phase ≠ .idle ∨ s.ports.cmdValid = false) : fetch s = .phase s.phase.code := by
  refine if_neg fun ⟨hp, hv⟩ => ?_
  rcases h with h | h
  · exact h hp
  · simp [h] at hv

theorem fetch_decodes (s : State) : ∃ i, decode s.params.nPixels (fetch s) = .ok i := by
  by_cases h : s.phase = .idle ∧ s.ports.cmdValid = true
  · rw [fetch_of_command h.1 h.2]; exact ⟨_, rfl⟩
  · rw [fetch_of_no_command (by simpa [or_iff_not_imp_left] using h)]; exact ⟨_, decode_phase _ _⟩

/-! ### The symbols of a FILL step (R78, R119) -/

theorem fillSymbol_quiet (b : Bool) (s : State) : fillSymbol b s.quiet = fillSymbol b s := rfl

theorem exec_decodeSymbol (b : Bool) (s : State) : exec (decodeSymbol (BitVec.ofBool b)) s = fillSymbol b s := by cases b <;> rfl

/-- A symbol below 24N writes its pair into the walk's slot, leaves every other slot, and advances IDX. -/
theorem fillSymbol_writes_slot {b : Bool} {i hi lo : Nat} (hp : s.phase = .fill) (hidx : s.idx = some i)
    (hlt : i < 24 * s.params.nPixels) (hh : (if b then s.dur.t1h else s.dur.t0h) = some hi)
    (hl : (if b then s.dur.t1l else s.dur.t0l) = some lo) : ∃ m : Memory Pair,
    fillSymbol b s = .next { s with sigbuf := m, idx := some (i + 1), rsp := none, relReq := false } ∧
    ∀ p, Memory.read m p = if p = wpos i then some ⟨⟨.high, hi⟩, ⟨.low, lo⟩⟩ else Memory.read s.sigbuf p :=
  ⟨_, fillSymbol_eq hp hidx hh hl (wpos_lt hlt), Memory.read_write _ _ _⟩

/-! ### The response port (R70, R75) -/

/-- What a step that ends a command or carries one on shows: a response with ERR and CAUSE, and DONE = 1, if it is back in IDLE. -/
def ShowsResult (t : State) : Prop :=
  (t.phase = .idle → t.rsp = some ⟨t.err, t.cause⟩ ∧ t.done = true) ∧ (t.phase ≠ .idle → t.rsp = none)

theorem showsResult_ended (e : Bool) (c : Cause) (s : State) : ShowsResult (s.ended e c) :=
  ⟨fun _ => ⟨rfl, rfl⟩, fun h => absurd rfl h⟩

theorem showsResult_busy (hp : t.phase ≠ .idle) (hr : t.rsp = none) : ShowsResult t := ⟨fun h => absurd h hp, fun _ => hr⟩

theorem execCommand_showsResult {n : Nat} {c : Command n} (hp : s.phase = .idle) (hx : exec c.toInstr s = .next t) :
    ShowsResult t := by
  cases c
  case nop =>
    obtain ⟨-, rfl⟩ | ⟨hn, -⟩ := execNop_next hx
    · exact showsResult_ended ..
    · exact absurd hp hn
  case init =>
    obtain ⟨-, -, rfl⟩ | ⟨-, -, rfl⟩ | ⟨hn, -⟩ := execInit_next hx
    · exact showsResult_ended ..
    · exact showsResult_busy (by simp) rfl
    · exact absurd hp hn
  case transmit =>
    obtain ⟨-, -, -, rfl⟩ | ⟨-, -, -, rfl⟩ | ⟨hn, -⟩ := execTransmit_next hx
    · exact showsResult_ended ..
    · exact showsResult_busy (by simp) rfl
    · exact absurd hp hn
  case release =>
    obtain ⟨-, -, rfl⟩ | ⟨-, -, pin, ch, -, -, rfl⟩ | ⟨hn, -⟩ := execRelease_next hx
    · exact showsResult_ended ..
    · exact showsResult_ended ..
    · exact absurd hp hn

theorem execClaim_showsResult (hx : execClaim s = .next t) : ShowsResult t := by
  obtain ⟨hp, ⟨-, rfl⟩ | ⟨a, pin, ch, div, -, -, -, -, ⟨-, rfl⟩ | ⟨-, rfl⟩⟩⟩ := execClaim_next hx
  · exact showsResult_busy (by simp [hp]) rfl
  · exact showsResult_ended ..
  · exact showsResult_ended ..

theorem execQfreq_showsResult (hx : execQfreq s = .next t) : ShowsResult t := by
  obtain ⟨hp, ⟨-, rfl⟩ | ⟨f, -, rfl⟩ | ⟨-, rfl⟩⟩ := execQfreq_next hx
  · exact showsResult_busy (by simp [hp]) rfl
  · exact showsResult_busy (by simp) rfl
  · exact showsResult_ended ..

theorem execConv_showsResult (hx : execConv s = .next t) : ShowsResult t := by
  obtain ⟨-, f, -, ⟨d, -, rfl⟩ | ⟨-, rfl⟩⟩ := execConv_next hx
  · exact showsResult_busy (by simp) rfl
  · exact showsResult_ended ..

theorem fillSymbol_showsResult {b : Bool} (hx : fillSymbol b s = .next t) : ShowsResult t := by
  obtain ⟨hp, i, hi, lo, -, -, -, ⟨-, rfl⟩ | ⟨-, rfl⟩⟩ := fillSymbol_next hx
  · exact showsResult_busy (by simp [hp]) rfl
  · exact showsResult_ended ..

theorem execFill_showsResult (hx : execFill s = .next t) : ShowsResult t := by
  obtain ⟨-, i, -, ⟨-, byte, -, hsym⟩ | ⟨-, rfl⟩⟩ := execFill_next hx
  · exact fillSymbol_showsResult hsym
  · exact showsResult_busy (by simp) rfl

theorem execSubmit_showsResult (hx : execSubmit s = .next t) : ShowsResult t := by
  obtain ⟨hp, ⟨-, rfl⟩ | ⟨a, buf, -, -, ⟨-, rfl⟩ | ⟨-, rfl⟩⟩⟩ := execSubmit_next hx
  · exact showsResult_busy (by simp [hp]) rfl
  · exact showsResult_busy (by simp) rfl
  · exact showsResult_ended ..

theorem execEmit_showsResult (hx : execEmit s = .next t) : ShowsResult t := by
  obtain ⟨hp, ⟨-, rfl⟩ | ⟨-, rfl⟩ | ⟨-, rfl⟩⟩ := execEmit_next hx
  · exact showsResult_busy (by simp [hp]) rfl
  · exact showsResult_ended ..
  · exact showsResult_ended ..

/-- A step without rst ends or carries on a command and shows it, or is an idle step that shows nothing and keeps the flags. -/
theorem step_showsResult (hr : s.ports.rst = false) (hs : step s = .next t) :
    ((s.phase ≠ .idle ∨ s.ports.cmdValid = true) ∧ ShowsResult t) ∨
    (s.phase = .idle ∧ s.ports.cmdValid = false ∧ t = s.quiet.nextInputs) := by
  have hinputs {u : State} (h : ShowsResult u) : ShowsResult u.nextInputs := by simpa [ShowsResult] using h
  obtain ⟨hrst, -⟩ | ⟨-, u, rfl, hu⟩ := step_rows hs
  · simp [hr] at hrst
  rcases hu with ⟨hp, hv, rfl⟩ | ⟨hp, hv, hx⟩ | ⟨hp, hx⟩ | ⟨hp, hx⟩ | ⟨hp, hx⟩ | ⟨hp, hx⟩ | ⟨hp, hx⟩ | ⟨hp, hx⟩
  · exact .inr ⟨hp, hv, rfl⟩
  · exact .inl ⟨.inr hv, hinputs (execCommand_showsResult hp hx)⟩
  · exact .inl ⟨.inl (by simp [hp]), hinputs (execClaim_showsResult hx)⟩
  · exact .inl ⟨.inl (by simp [hp]), hinputs (execQfreq_showsResult hx)⟩
  · exact .inl ⟨.inl (by simp [hp]), hinputs (execConv_showsResult hx)⟩
  · exact .inl ⟨.inl (by simp [hp]), hinputs (execFill_showsResult hx)⟩
  · exact .inl ⟨.inl (by simp [hp]), hinputs (execSubmit_showsResult hx)⟩
  · exact .inl ⟨.inl (by simp [hp]), hinputs (execEmit_showsResult hx)⟩

end Sys2Proof.Machine

/-! ### The statements of 30_encoding.md -/

namespace Sys2Proof.Machine

/-- Settles O1: INIT's fields come back by `decodeCommand_initWord`, TRANSMIT's operand by `unpackPixels_packPixels`; every other
word is a constant. -/
theorem decodeEncodeRoundTrip : Obligations.DecodeEncodeRoundTrip := by
  intro n i hwf
  cases i
  case init pinf chf => exact congrArg (fun c => Except.ok (Command.toInstr c)) (decodeCommand_initWord n pinf chf 0)
  case transmit px =>
    obtain ⟨m, px⟩ := px
    obtain rfl : m = n := by simpa [Instr.wellFormed] using hwf
    exact congrArg (fun v => Except.ok (Instr.transmit ⟨m, v⟩)) (unpackPixels_packPixels px)
  all_goals rfl

/-- Settles O2: `decodeCommand_eq`, the command read as an instruction. -/
theorem commandWordSelectsByOp : Obligations.CommandWordSelectsByOp := by
  intro n w pix
  rw [decode, decodeCommand_eq]
  simp only [apply_ite Command.toInstr]
  rfl

/-- Settles O3: a byte of the pixel word is a byte of the port. -/
theorem pixelOperandPacking : Obligations.PixelOperandPacking := by
  intro n pix
  refine ⟨Vector.length_toList, fun i hi => ?_⟩
  rw [Vector.getElem?_eq_getElem hi, getElem_unpackPixels, colorOfWord, pixelWord_byte _ _ (by decide),
    pixelWord_byte _ _ (by decide), pixelWord_byte _ _ (by decide)]
  rfl

/-- Settles O28: `fillSymbol_writes_slot` for each bit, and `execFill_eq_fillSymbol`. -/
theorem symbolRowsSelectPairs : Obligations.SymbolRowsSelectPairs := by
  refine ⟨fun s i h l hp hidx hi hh hl => fillSymbol_writes_slot (b := false) hp hidx hi hh hl,
    fun s i h l hp hidx hi hh hl => fillSymbol_writes_slot (b := true) hp hidx hi hh hl, fun s i byte hp hidx hi hbyte => ?_⟩
  calc execFill s = fillSymbol (xbit byte (walkBit i)) s.quiet := execFill_eq_fillSymbol hp hidx hi hbyte
    _ = fillSymbol (xbit byte (walkBit i)) s := fillSymbol_quiet _ s
    _ = exec (decodeSymbol (BitVec.ofBool (xbit byte (walkBit i)))) s := (exec_decodeSymbol _ s).symm

/-- Settles O45: a step that works on a command shows its result (`step_showsResult`), an idle step shows nothing. -/
theorem responseExactlyAtCompletion : Obligations.ResponseExactlyAtCompletion := by
  intro s t hr hs
  rcases step_showsResult hr hs with ⟨hwork, hidle, hbusy⟩ | ⟨hp, hv, rfl⟩
  · have hnot (hp : s.phase = .idle) (hv : s.ports.cmdValid = false) : False := by simp [hp, hv] at hwork
    by_cases ht : t.phase = .idle
    · obtain ⟨hrsp, hdone⟩ := hidle ht
      exact ⟨hrsp.trans (if_pos ⟨ht, hwork⟩).symm, fun _ => hdone, fun hp hv => (hnot hp hv).elim⟩
    · rw [hbusy ht]
      exact ⟨(if_neg fun h => ht h.1).symm, by simp, fun hp hv => (hnot hp hv).elim⟩
  · simp [hp, hv]

/-- Settles O5: a row matches a code iff it is the code's own row, which is the row of the instruction the code decodes to. -/
theorem tableRowsDoNotOverlap : Obligations.TableRowsDoNotOverlap := by
  refine ⟨fun n c k hd i => ?_, fun c i j hi hj => ?_, fun i => by cases i <;> rfl⟩
  · rw [matches_iff_eq_ownRow, ← row_of_decode hd, row_eq_row_iff]
  · exact row_eq_row_iff.1 ((matches_iff_eq_ownRow.1 hi).trans (matches_iff_eq_ownRow.1 hj).symm)

/-- Settles O6: the decoder evaluated on each word. -/
theorem specWordsDecode : Obligations.SpecWordsDecode := by
  unfold Obligations.SpecWordsDecode
  decide

/-- Settles O7: neither half's bits reach into the other's, so each OR is a sum. -/
theorem pairWordLayout : Obligations.PairWordLayout := by
  refine ⟨by decide, fun hi lo hhi hlo => ?_⟩
  have hword : pairWord 15 (mkPair hi lo) = lo <<< 16 ||| (0x8000 ||| hi) := by
    simp [pairWord, mkPair, pulseWord_low, pulseWord_high, halfWidth]
  have hhigh : 0x8000 ||| hi = 32768 + hi := (Nat.two_pow_add_eq_or_of_lt (i := 15) (by omega) 1).symm
  refine ⟨by rw [hword, Nat.or_assoc], ?_⟩
  rw [hword, hhigh, ← Nat.shiftLeft_add_eq_or_of_lt (by omega), Nat.shiftLeft_eq]
  omega

/-- Settles O9: each port's definition, and both branches of tx_rd_data in EMIT. -/
theorem outputPortsFollowPhase : Obligations.OutputPortsFollowPhase := by
  intro s
  refine ⟨decide_eq_true_iff, decide_eq_true_iff, decide_eq_true_iff, decide_eq_true_iff, rfl, rfl, rfl, rfl,
    fun hp hlt pair hread => ?_, fun hp hge => ⟨Config.readNoSlot s.tick, ?_⟩⟩
  · change s.rdIdx < s.slots at hlt
    change Memory.read s.sigbuf s.rdIdx = some pair at hread
    simp [State.txRdData, hp, hlt, hread]
  · change s.slots ≤ s.rdIdx at hge
    simp [State.txRdData, hp, hge]

/-- Settles O10: the branch of `step` without rst, for the instruction that was decoded. -/
theorem stepExecutesWhatItDecodes : Obligations.StepExecutesWhatItDecodes := by
  intro s i hr hd
  have hstep : step s = afterExec (exec i s) := by
    unfold step
    simp [hr, hd]
  exact hstep

/-- Settles O11: the two forms of `fetch`, and `fetch_decodes`. -/
theorem fetchReadsPortOrPhase : Obligations.FetchReadsPortOrPhase :=
  fun s => ⟨fetch_of_command, fetch_of_no_command, fetch_decodes s⟩

/-- Settles O21: the length is looked at first once TRANSMIT is accepted. -/
theorem wrongLengthIsRejected : Obligations.WrongLengthIsRejected := by
  intro px s hp hn
  change execTransmit px s = _
  rw [execTransmit, accept_idle hp]
  exact if_pos hn

end Sys2Proof.Machine

/-! PROOFS. What each command and each phase's row answers, said forwards, what the rows do to PHASE, the binding and the trace, the
run of a TRANSMIT, and the statements of 40_commands.md. -/

namespace Sys2Proof

/-! ### The command word (R71, R76) -/

/-- OP of a command (R76). -/
def Command.op {n : Nat} : Command n → BitVec 2
  | .nop => 0
  | .init _ _ => 1
  | .transmit _ => 2
  | .release => 3

/-- A word decodes to the command whose OP stands in its bits 1:0. -/
theorem op_decodeCommand (n : Nat) (w : BitVec 16) (pix : Nat) : (decodeCommand n w pix).op = w.extractLsb' 0 2 := by
  have hop (v : BitVec 2) : v.toNat = 0 ∨ v.toNat = 1 ∨ v.toNat = 2 ∨ v.toNat = 3 := by omega
  unfold decodeCommand
  obtain h | h | h | h := hop (w.extractLsb' 0 2) <;> rw [h] <;> exact BitVec.eq_of_toNat_eq h.symm

theorem decode_command_nop {n pix : Nat} {w : BitVec 16} (h : w.extractLsb' 0 2 = 0) :
    decode n (.command w pix) = .ok .nop := by simp [decode, decodeCommand, h, Command.toInstr]

theorem decode_command_init {n pix : Nat} {w : BitVec 16} (h : w.extractLsb' 0 2 = 1) :
    decode n (.command w pix) = .ok (.init (w.extractLsb' 2 6) (w.extractLsb' 8 4)) := by
  simp [decode, decodeCommand, h, Command.toInstr]

theorem decode_command_transmit {n pix : Nat} {w : BitVec 16} (h : w.extractLsb' 0 2 = 2) :
    decode n (.command w pix) = .ok (.transmit ⟨n, unpackPixels n pix⟩) := by
  simp [decode, decodeCommand, h, Command.toInstr]

theorem decode_command_release {n pix : Nat} {w : BitVec 16} (h : w.extractLsb' 0 2 = 3) :
    decode n (.command w pix) = .ok .release := by simp [decode, decodeCommand, h, Command.toInstr]

end Sys2Proof

namespace Sys2Proof.Machine

variable {s t u : State}

/-! ### The commands forwards (R91, R93, R95, R100, R102) -/

theorem complete_eq_ended (s : State) : complete s = .next (s.ended false .none) := rfl

theorem raise_eq_ended (c : Cause) (s : State) : raise c s = .next (s.ended true c) := rfl

theorem accept_busy (h : s.phase ≠ .idle) (k : State → Result) : accept s k = .next s := if_neg h

/-- Every command is run by its accept rule. -/
theorem execCommand_eq_accept {n : Nat} (c : Command n) : ∃ k, ∀ s, exec c.toInstr s = accept s k := by
  cases c
  case nop => exact ⟨_, execNop.eq_def⟩
  case init pinf chf => exact ⟨_, execInit.eq_def pinf chf⟩
  case transmit px => exact ⟨_, execTransmit.eq_def ⟨n, px⟩⟩
  case release => exact ⟨_, execRelease.eq_def⟩

/-- A busy block accepts no command (R102). -/
theorem execCommand_busy {n : Nat} (c : Command n) (h : s.phase ≠ .idle) : exec c.toInstr s = .next s := by
  obtain ⟨k, hk⟩ := execCommand_eq_accept c
  rw [hk, accept_busy h]

/-- The accept rule ends the one-step outputs itself. -/
theorem execCommand_quiet {n : Nat} (c : Command n) (h : s.phase = .idle) : exec c.toInstr s.quiet = exec c.toInstr s := by
  obtain ⟨k, hk⟩ := execCommand_eq_accept c
  have hq : s.quiet.phase = .idle := h
  rw [hk, hk, accept_idle hq, accept_idle h]
  rfl

theorem runCommand_eq_exec {n : Nat} (c : Command n) (s : State) : runCommand c s = exec c.toInstr s := by cases c <;> rfl

/-- With a command on the port the IDLE row is the accept rule of that command (R90). -/
theorem execIdle_of_command (hp : s.phase = .idle) (hv : s.ports.cmdValid = true) :
    execIdle s = exec (decodeCommand s.params.nPixels s.ports.cmdWord s.ports.pixData).toInstr s := by
  rw [execIdle, inPhase_eq hp, State.quiet_ports, if_pos hv, runCommand_eq_exec]
  exact execCommand_quiet _ hp

theorem execNop_idle (hp : s.phase = .idle) : execNop s = .next (s.quiet.ended false .none) := accept_idle hp _

theorem execInit_bound (hp : s.phase = .idle) (hb : s.bound = true) (pinf : PinField) (chf : ChField) :
    execInit pinf chf s = .next (s.quiet.ended true .claim) :=
  (accept_idle hp _).trans (if_pos hb)

theorem execInit_unbound (hp : s.phase = .idle) (hb : s.bound = false) (pinf : PinField) (chf : ChField) :
    execInit pinf chf s = .next
      ((s.quiet.clearFlags.setBinding (some (s.pinOf pinf)) (some (s.chOf chf)) (some Config.divRef)).goto .claim) :=
  (accept_idle hp _).trans (if_neg (by simp [hb]))

theorem exec_transmit {n : Nat} (px : Vector Color n) (s : State) :
    exec (Command.transmit px).toInstr s = execTransmit ⟨n, px⟩ s := rfl

theorem execTransmit_bound (hp : s.phase = .idle) (hb : s.bound = true) (px : Vector Color s.params.nPixels) :
    execTransmit ⟨s.params.nPixels, px⟩ s =
      .next { s.quiet.clearFlags with pixl := Memory.ofList 0 px.toList, phase := .qfreq } := by
  rw [execTransmit, accept_idle hp]
  simp [hb]

theorem execTransmit_unbound (hp : s.phase = .idle) (hb : s.bound = false) (px : Vector Color s.params.nPixels) :
    execTransmit ⟨s.params.nPixels, px⟩ s = .next (s.quiet.clearFlags.ended true .notBound) := by
  rw [execTransmit, accept_idle hp]
  simp [hb, raise_eq_ended]

theorem execRelease_unbound (hp : s.phase = .idle) (hb : s.bound = false) :
    execRelease s = .next (s.quiet.ended true .notBound) :=
  (accept_idle hp _).trans (if_neg (by simp [hb]))

theorem execRelease_bound {pin : PinNo} {ch : ChNo} (hp : s.phase = .idle) (hb : s.bound = true) (hpin : s.pin = some pin)
    (hch : s.ch = some ch) :
    execRelease s = .next (State.ended false .none
      { (s.quiet.clearFlags.log [.release pin ch]).setBinding none none none with bound := false, relReq := true }) := by
  rw [execRelease, accept_idle hp]
  simp [hb, hpin, hch, complete_eq_ended]

/-- In an idle block that holds no register of a transmission a completion writes the flags and the response only. -/
theorem NoTransmission.ended_eq (h : NoTransmission s) (hp : s.phase = .idle) (e : Bool) (c : Cause) :
    s.ended e c = s.setResult e c := by
  have hdiscard : s.discard = s := by
    obtain ⟨hpixl, hfreq, hdur, hidx, hsigbuf⟩ := h
    obtain ⟨⟨⟩, ⟨⟩⟩ := s
    simp_all [State.discard]
  rw [← discard_setResult, hdiscard]

/-! ### The answers on the ports (R85) -/

theorem claimAnswer_eq_some {p : Inputs} {a : Answer} :
    claimAnswer p = some a ↔ p.claimAck = true ∧ a = if p.claimErr then .err else .ok := by
  unfold claimAnswer
  cases p.claimAck <;> simp [eq_comm (a := a)]

theorem freqAnswer_eq_some {w : Nat} {p : Inputs} {a : FreqAnswer} :
    freqAnswer w p = some a ↔ p.freqAck = true ∧ a = if p.freqErr then .err else .ok (p.freqHz % 2 ^ w) := by
  unfold freqAnswer
  cases p.freqAck <;> simp [eq_comm (a := a)]

theorem doneAnswer_eq_some {p : Inputs} {a : Answer} :
    doneAnswer p = some a ↔ p.txDone = true ∧ a = if p.txFault then .err else .ok := by
  unfold doneAnswer
  cases p.txDone <;> simp [eq_comm (a := a)]

/-- One start line alone names its answer (R85). -/
theorem startAnswer_line {n : Nat} {p : Inputs} {a : Answer} (h : startAnswer n p = some a) :
    (p.txNack = false → a = .ok) ∧ (p.txAck = false → a = .err) := by
  unfold startAnswer at h
  cases hack : p.txAck <;> cases hnack : p.txNack <;> simp [hack, hnack] at h ⊢ <;> exact h.symm

/-! ### The phases forwards (R92, R110, R112, R155, R157) -/

theorem execClaim_waits (hp : s.phase = .claim) (ha : claimAnswer s.ports = none) : execClaim s = .next s.quiet := by
  rw [execClaim, inPhase_eq hp]
  simp [ha]

theorem execClaim_ok {pin : PinNo} {ch : ChNo} {div : BitVec 8} (hp : s.phase = .claim) (hpin : s.pin = some pin)
    (hch : s.ch = some ch) (hdiv : s.div = some div) (ha : claimAnswer s.ports = some .ok) :
    execClaim s = .next (State.ended false .none
      { s.quiet.log [.claim pin ch div, .claimAns .ok] with bound := true }) := by
  rw [execClaim, inPhase_eq hp]
  simp [ha, hpin, hch, hdiv, complete_eq_ended]

theorem execClaim_err {pin : PinNo} {ch : ChNo} {div : BitVec 8} (hp : s.phase = .claim) (hpin : s.pin = some pin)
    (hch : s.ch = some ch) (hdiv : s.div = some div) (ha : claimAnswer s.ports = some .err) :
    execClaim s = .next (State.ended true .claim
      ((s.quiet.log [.claim pin ch div, .claimAns .err]).setBinding none none none)) := by
  rw [execClaim, inPhase_eq hp]
  simp [ha, hpin, hch, hdiv, raise_eq_ended]

theorem execQfreq_ok {f : Nat} (hp : s.phase = .qfreq) (ha : freqAnswer s.params.freqW s.ports = some (.ok f)) :
    execQfreq s = .next { s.quiet.log [.freqQuery, .freqAns (.ok f)] with freq := some f, phase := .conv } := by
  rw [execQfreq, inPhase_eq hp]
  simp [ha]

theorem execQfreq_err (hp : s.phase = .qfreq) (ha : freqAnswer s.params.freqW s.ports = some .err) :
    execQfreq s = .next ((s.quiet.log [.freqQuery, .freqAns .err]).ended true .freq) := by
  rw [execQfreq, inPhase_eq hp]
  simp [ha, raise_eq_ended]

theorem execConv_ok {f : Nat} {d : Durations} (hp : s.phase = .conv) (hf : s.freq = some f)
    (hd : durations s.params.tickMax f = some d) :
    execConv s = .next { s.quiet with dur := DurFile.ofDurations d, idx := some 0, phase := .fill } := by
  rw [execConv, inPhase_eq hp]
  simp [hf, hd]

theorem execConv_err {f : Nat} (hp : s.phase = .conv) (hf : s.freq = some f) (hd : durations s.params.tickMax f = none) :
    execConv s = .next (s.quiet.ended true .conv) := by
  rw [execConv, inPhase_eq hp]
  simp [hf, hd, raise_eq_ended]

theorem execSubmit_ok {buf : List Pair} (hp : s.phase = .submit) (hbuf : Memory.readRange s.sigbuf 0 s.slots = some buf)
    (ha : startAnswer s.tick s.ports = some .ok) :
    execSubmit s = .next ((s.quiet.log [.start buf, .startAns .ok]).goto .emit) := by
  rw [execSubmit, inPhase_eq hp]
  simp [ha, hbuf]

theorem execSubmit_err {buf : List Pair} (hp : s.phase = .submit) (hbuf : Memory.readRange s.sigbuf 0 s.slots = some buf)
    (ha : startAnswer s.tick s.ports = some .err) :
    execSubmit s = .next ((s.quiet.log [.start buf, .startAns .err]).ended true .txStart) := by
  rw [execSubmit, inPhase_eq hp]
  simp [ha, hbuf, raise_eq_ended]

theorem execEmit_ok (hp : s.phase = .emit) (ha : doneAnswer s.ports = some .ok) :
    execEmit s = .next ((s.quiet.log [.doneAns .ok]).ended false .none) := by
  rw [execEmit, inPhase_eq hp]
  simp [ha, complete_eq_ended]

theorem execEmit_err (hp : s.phase = .emit) (ha : doneAnswer s.ports = some .err) :
    execEmit s = .next ((s.quiet.log [.doneAns .err]).ended true .txFault) := by
  rw [execEmit, inPhase_eq hp]
  simp [ha, raise_eq_ended]

/-! ### A step forwards (R104), and the inputs of the next -/

/-- The step of a busy phase, with the phase named. -/
theorem step_busy_of_phase {p : Phase} (hs : step s = .next t) (hr : s.ports.rst = false) (hp : s.phase = p) (hne : p ≠ .idle) :
    ∃ u, t = u.nextInputs ∧ exec p.toInstr s = .next u := by
  subst hp
  exact step_busy hs hr hne

/-- A busy step without rst is the row of its phase. -/
theorem step_of_exec {p : Phase} (hr : s.ports.rst = false) (hp : s.phase = p) (hne : p ≠ .idle)
    (hx : exec p.toInstr s = .next u) : step s = .next u.nextInputs := by
  subst hp
  rw [step_eq_phase hr fun hi => absurd hi hne, hx]
  rfl

/-- The state that takes `i` from the script. -/
def State.onInputs (i : Inputs) (is : List Inputs) (s : State) : State := { s with ports := i, script := is, tick := s.tick + 1 }

theorem Inv.onInputs (h : Inv s) (i : Inputs) (is : List Inputs) : Inv (s.onInputs i is) := { h with }

theorem nextInputs_eq_onInputs {i : Inputs} {is : List Inputs} (h : s.script = i :: is) : s.nextInputs = s.onInputs i is :=
  State.nextInputs_of_cons h

/-! ### What the rows do to PHASE (R104) -/

/-- A FILL step writes a slot of SIGBUF and advances IDX, or leaves the loop; it never ends the command (R148, R150, R175). -/
theorem execFill_cases (h : execFill s = .next t) :
    (∃ m i, t = { s.quiet with sigbuf := m, idx := some i }) ∨ t = { s.quiet with idx := none, phase := .submit } := by
  obtain ⟨-, i, hidx, ⟨hi, byte, -, hsym⟩ | ⟨-, rfl⟩⟩ := execFill_next h
  · obtain ⟨-, j, hi', lo, hj, -, -, ⟨-, rfl⟩ | ⟨hout, -⟩⟩ := fillSymbol_next hsym
    · exact .inl ⟨_, _, rfl⟩
    · obtain rfl : i = j := Option.some.inj (hidx.symm.trans hj)
      exact absurd (wpos_lt hi) (Nat.not_lt.2 hout)
  · exact .inr rfl

theorem execFill_phase (h : execFill s = .next t) : t.phase = .fill ∨ t.phase = .submit := by
  have hp : s.phase = .fill := (execFill_next h).1
  obtain ⟨m, i, rfl⟩ | rfl := execFill_cases h
  · exact .inl hp
  · exact .inr rfl

theorem execCommand_phase {n : Nat} {c : Command n} (hp : s.phase = .idle) (hx : exec c.toInstr s = .next t) :
    t.phase = .idle ∨ t.phase = .claim ∨ t.phase = .qfreq := by
  cases c
  case nop => obtain ⟨-, rfl⟩ | ⟨-, rfl⟩ := execNop_next hx <;> simp [hp]
  case init => obtain ⟨-, -, rfl⟩ | ⟨-, -, rfl⟩ | ⟨-, rfl⟩ := execInit_next hx <;> simp [hp]
  case transmit => obtain ⟨-, -, -, rfl⟩ | ⟨-, -, -, rfl⟩ | ⟨-, rfl⟩ := execTransmit_next hx <;> simp [hp]
  case release => obtain ⟨-, -, rfl⟩ | ⟨-, -, pin, ch, -, -, rfl⟩ | ⟨-, rfl⟩ := execRelease_next hx <;> simp [hp]

theorem execClaim_phase (hx : execClaim s = .next t) : t.phase = .claim ∨ t.phase = .idle := by
  obtain ⟨hp, ⟨-, rfl⟩ | ⟨a, pin, ch, div, -, -, -, -, ⟨-, rfl⟩ | ⟨-, rfl⟩⟩⟩ := execClaim_next hx <;> simp [hp]

theorem execQfreq_phase (hx : execQfreq s = .next t) : t.phase = .qfreq ∨ t.phase = .conv ∨ (t.phase = .idle ∧ t.err = true) := by
  obtain ⟨hp, ⟨-, rfl⟩ | ⟨f, -, rfl⟩ | ⟨-, rfl⟩⟩ := execQfreq_next hx <;> simp [hp]

theorem execConv_phase (hx : execConv s = .next t) : t.phase = .fill ∨ (t.phase = .idle ∧ t.err = true) := by
  obtain ⟨-, f, -, ⟨d, -, rfl⟩ | ⟨-, rfl⟩⟩ := execConv_next hx <;> simp

theorem execSubmit_phase (hx : execSubmit s = .next t) :
    t.phase = .submit ∨ t.phase = .emit ∨ (t.phase = .idle ∧ t.err = true) := by
  obtain ⟨hp, ⟨-, rfl⟩ | ⟨a, buf, -, -, ⟨-, rfl⟩ | ⟨-, rfl⟩⟩⟩ := execSubmit_next hx <;> simp [hp]

theorem execEmit_phase (hx : execEmit s = .next t) :
    t.phase = .emit ∨ (t.phase = .idle ∧ (t.err = false → doneAnswer s.ports = some .ok)) := by
  obtain ⟨hp, ⟨-, rfl⟩ | ⟨ha, rfl⟩ | ⟨-, rfl⟩⟩ := execEmit_next hx
  · exact .inl hp
  · exact .inr ⟨rfl, fun _ => ha⟩
  · exact .inr ⟨rfl, fun he => nomatch he⟩

/-! ### What the rows do to the binding (R106) -/

/-- BOUND, PIN, CH, DIV as they were. -/
def SameBinding (s t : State) : Prop := t.bound = s.bound ∧ t.pin = s.pin ∧ t.ch = s.ch ∧ t.div = s.div

theorem SameBinding.refl (s : State) : SameBinding s s := ⟨rfl, rfl, rfl, rfl⟩

/-- A command leaves the binding, or it is an INIT that claims one or a RELEASE that gives it up. -/
theorem execCommand_binding {n : Nat} {c : Command n} (hx : exec c.toInstr s = .next t) :
    SameBinding s t ∨ (c.op = 1 ∧ s.bound = false ∧ t.bound = false ∧ t.phase = .claim) ∨
    (c.op = 3 ∧ s.bound = true ∧ t.bound = false ∧ t.pin = none ∧ t.ch = none ∧ t.div = none) := by
  cases c
  case nop => obtain ⟨-, rfl⟩ | ⟨-, rfl⟩ := execNop_next hx <;> exact .inl (.refl _)
  case init =>
    obtain ⟨-, -, rfl⟩ | ⟨-, hb, rfl⟩ | ⟨-, rfl⟩ := execInit_next hx
    · exact .inl (.refl _)
    · exact .inr (.inl ⟨rfl, hb, hb, rfl⟩)
    · exact .inl (.refl _)
  case transmit => obtain ⟨-, -, -, rfl⟩ | ⟨-, -, -, rfl⟩ | ⟨-, rfl⟩ := execTransmit_next hx <;> exact .inl (.refl _)
  case release =>
    obtain ⟨-, -, rfl⟩ | ⟨-, hb, pin, ch, -, -, rfl⟩ | ⟨-, rfl⟩ := execRelease_next hx
    · exact .inl (.refl _)
    · exact .inr (.inr ⟨rfl, hb, rfl, rfl, rfl, rfl⟩)
    · exact .inl (.refl _)

theorem execClaim_binding (hx : execClaim s = .next t) :
    SameBinding s t ∨
    (claimAnswer s.ports = some .ok ∧ t.bound = true ∧ t.pin = s.pin ∧ t.ch = s.ch ∧ t.div = s.div) ∨
    (claimAnswer s.ports = some .err ∧ t.bound = s.bound ∧ t.pin = none ∧ t.ch = none ∧ t.div = none) := by
  obtain ⟨-, ⟨-, rfl⟩ | ⟨a, pin, ch, div, ha, -, -, -, ⟨rfl, rfl⟩ | ⟨rfl, rfl⟩⟩⟩ := execClaim_next hx
  · exact .inl (.refl _)
  · exact .inr (.inl ⟨ha, rfl, rfl, rfl, rfl⟩)
  · exact .inr (.inr ⟨ha, rfl, rfl, rfl, rfl⟩)

/-- The rows of a TRANSMIT in progress leave the binding. -/
theorem execTransmitting_binding (hp : transmittingPhase s.phase = true) (hx : exec s.phase.toInstr s = .next t) :
    SameBinding s t := by
  cases hq : s.phase <;> rw [hq] at hp hx
  case idle => cases hp
  case claim => cases hp
  case qfreq => obtain ⟨-, ⟨-, rfl⟩ | ⟨f, -, rfl⟩ | ⟨-, rfl⟩⟩ := execQfreq_next hx <;> exact .refl _
  case conv => obtain ⟨-, f, -, ⟨d, -, rfl⟩ | ⟨-, rfl⟩⟩ := execConv_next hx <;> exact .refl _
  case fill => obtain ⟨m, i, rfl⟩ | rfl := execFill_cases hx <;> exact .refl _
  case submit => obtain ⟨-, ⟨-, rfl⟩ | ⟨a, buf, -, -, ⟨-, rfl⟩ | ⟨-, rfl⟩⟩⟩ := execSubmit_next hx <;> exact .refl _
  case emit => obtain ⟨-, ⟨-, rfl⟩ | ⟨-, rfl⟩ | ⟨-, rfl⟩⟩ := execEmit_next hx <;> exact .refl _

/-! ### What the rows add to the trace (R108) -/

/-- A command adds nothing, or it is a RELEASE on a bound block and adds the notice. -/
theorem execCommand_trace {n : Nat} {c : Command n} (hx : exec c.toInstr s = .next t) :
    t.trace = s.trace ∨ ∃ pin ch, s.pin = some pin ∧ s.ch = some ch ∧ s.bound = true ∧ t.relReq = true ∧
      t.trace = s.trace ++ [.release pin ch] := by
  cases c
  case nop => obtain ⟨-, rfl⟩ | ⟨-, rfl⟩ := execNop_next hx <;> exact .inl rfl
  case init => obtain ⟨-, -, rfl⟩ | ⟨-, -, rfl⟩ | ⟨-, rfl⟩ := execInit_next hx <;> exact .inl rfl
  case transmit => obtain ⟨-, -, -, rfl⟩ | ⟨-, -, -, rfl⟩ | ⟨-, rfl⟩ := execTransmit_next hx <;> exact .inl rfl
  case release =>
    obtain ⟨-, -, rfl⟩ | ⟨-, hb, pin, ch, hpin, hch, rfl⟩ | ⟨-, rfl⟩ := execRelease_next hx
    · exact .inl rfl
    · exact .inr ⟨pin, ch, hpin, hch, hb, rfl, rfl⟩
    · exact .inl rfl

theorem execClaim_trace (hx : execClaim s = .next t) :
    (claimAnswer s.ports = none ∧ t.trace = s.trace) ∨ ∃ a pin ch div, claimAnswer s.ports = some a ∧
      s.pin = some pin ∧ s.ch = some ch ∧ s.div = some div ∧ t.trace = s.trace ++ [.claim pin ch div, .claimAns a] := by
  obtain ⟨-, ⟨ha, rfl⟩ | ⟨a, pin, ch, div, ha, hpin, hch, hdiv, ⟨-, rfl⟩ | ⟨-, rfl⟩⟩⟩ := execClaim_next hx
  · exact .inl ⟨ha, rfl⟩
  · exact .inr ⟨a, pin, ch, div, ha, hpin, hch, hdiv, rfl⟩
  · exact .inr ⟨a, pin, ch, div, ha, hpin, hch, hdiv, rfl⟩

theorem execQfreq_trace (hx : execQfreq s = .next t) :
    (freqAnswer s.params.freqW s.ports = none ∧ t.trace = s.trace) ∨
    ∃ a, freqAnswer s.params.freqW s.ports = some a ∧ t.trace = s.trace ++ [.freqQuery, .freqAns a] := by
  obtain ⟨-, ⟨ha, rfl⟩ | ⟨f, ha, rfl⟩ | ⟨ha, rfl⟩⟩ := execQfreq_next hx
  · exact .inl ⟨ha, rfl⟩
  · exact .inr ⟨_, ha, rfl⟩
  · exact .inr ⟨_, ha, rfl⟩

theorem execSubmit_trace (hx : execSubmit s = .next t) :
    (startAnswer s.tick s.ports = none ∧ t.trace = s.trace) ∨ ∃ a buf, startAnswer s.tick s.ports = some a ∧
      Memory.readRange s.sigbuf 0 s.slots = some buf ∧ t.trace = s.trace ++ [.start buf, .startAns a] := by
  obtain ⟨-, ⟨ha, rfl⟩ | ⟨a, buf, ha, hbuf, ⟨-, rfl⟩ | ⟨-, rfl⟩⟩⟩ := execSubmit_next hx
  · exact .inl ⟨ha, rfl⟩
  · exact .inr ⟨a, buf, ha, hbuf, rfl⟩
  · exact .inr ⟨a, buf, ha, hbuf, rfl⟩

theorem execEmit_trace (hx : execEmit s = .next t) :
    (doneAnswer s.ports = none ∧ t.trace = s.trace) ∨
    ∃ a, doneAnswer s.ports = some a ∧ t.trace = s.trace ++ [.doneAns a] := by
  obtain ⟨-, ⟨ha, rfl⟩ | ⟨ha, rfl⟩ | ⟨ha, rfl⟩⟩ := execEmit_next hx
  · exact .inl ⟨ha, rfl⟩
  · exact .inr ⟨_, ha, rfl⟩
  · exact .inr ⟨_, ha, rfl⟩

/-- An idle step adds nothing to the trace but the notice of a RELEASE. -/
theorem step_idle_trace (hs : step s = .next t) (hr : s.ports.rst = false) (hp : s.phase = .idle) :
    t.trace = s.trace ∨ ∃ pin ch, s.pin = some pin ∧ s.ch = some ch ∧ s.ports.cmdValid = true ∧ s.bound = true ∧
      t.relReq = true ∧ t.trace = s.trace ++ [.release pin ch] := by
  rcases step_phase hs with ⟨hrst, -⟩ | ⟨-, u, rfl, ⟨-, -, rfl⟩ | ⟨-, hv, hx⟩ | ⟨hbusy, -⟩⟩
  · simp [hr] at hrst
  · simp
  · simpa [hv] using execCommand_trace hx
  · exact absurd hp hbusy

/-! ### The command port while busy (R102)

Two answers that lead to the same step are answers with the same `afterExec`. -/

/-- The state with other values on the command port. -/
def State.withCommand (valid : Bool) (word : BitVec 16) (pix : Nat) (s : State) : State :=
  { s with ports := { s.ports with cmdValid := valid, cmdWord := word, pixData := pix } }

/-- The ports of a step are gone once the next inputs are taken. -/
theorem nextInputs_withPorts (s : State) (p : Inputs) : { s with ports := p }.nextInputs = s.nextInputs := by
  obtain ⟨regs, params, rsp, relReq, ports, script, tick, trace⟩ := s
  cases script <;> rfl

theorem nextInputs_eq_of_ports (h : { t with ports := s.ports } = s) : t.nextInputs = s.nextInputs := by
  rw [← nextInputs_withPorts t s.ports, h]

theorem afterExec_eq_of_ports (h : { t with ports := s.ports } = s) : afterExec (.next t) = afterExec (.next s) :=
  congrArg Host.Outcome.next (nextInputs_eq_of_ports h)

theorem afterExec_need {α : Type} {r : Reg} {v : Option α} {k l : α → Result} (h : ∀ x, afterExec (k x) = afterExec (l x)) :
    afterExec (need r v k) = afterExec (need r v l) := by
  cases v
  · rfl
  · exact h _

/-- WSLOT out of range and in range (R146). -/
theorem wslot_of_slots_le {p : Nat} {pair : Pair} {k : State → Result} (h : s.slots ≤ p) : wslot p pair s k = raise .index s :=
  if_pos h

theorem wslot_of_lt_slots {p : Nat} {pair : Pair} {k : State → Result} (h : p < s.slots) :
    wslot p pair s k = k { s with sigbuf := Memory.write s.sigbuf p pair } := if_neg (Nat.not_le.2 h)

section CommandPort

variable (valid : Bool) (word : BitVec 16) (pix : Nat)

theorem execClaim_withCommand (hp : s.phase = .claim) :
    afterExec (execClaim (s.withCommand valid word pix)) = afterExec (execClaim s) := by
  have hq : (s.withCommand valid word pix).phase = .claim := hp
  have ha : claimAnswer (s.withCommand valid word pix).ports = claimAnswer s.ports := rfl
  rw [execClaim, execClaim, inPhase_eq hp, inPhase_eq hq]
  simp only [State.quiet_ports, ha]
  cases claimAnswer s.ports with
  | none => exact afterExec_eq_of_ports rfl
  | some a =>
    refine afterExec_need fun pin => afterExec_need fun ch => afterExec_need fun div => ?_
    cases a <;> exact afterExec_eq_of_ports rfl

theorem execQfreq_withCommand (hp : s.phase = .qfreq) :
    afterExec (execQfreq (s.withCommand valid word pix)) = afterExec (execQfreq s) := by
  have hq : (s.withCommand valid word pix).phase = .qfreq := hp
  have ha : freqAnswer (s.withCommand valid word pix).params.freqW (s.withCommand valid word pix).ports =
    freqAnswer s.params.freqW s.ports := rfl
  rw [execQfreq, execQfreq, inPhase_eq hp, inPhase_eq hq]
  simp only [State.quiet_ports, State.quiet_params, ha]
  cases freqAnswer s.params.freqW s.ports with
  | none => exact afterExec_eq_of_ports rfl
  | some a => cases a <;> exact afterExec_eq_of_ports rfl

theorem execConv_withCommand (hp : s.phase = .conv) :
    afterExec (execConv (s.withCommand valid word pix)) = afterExec (execConv s) := by
  have hq : (s.withCommand valid word pix).phase = .conv := hp
  have hparams : (s.withCommand valid word pix).params = s.params := rfl
  rw [execConv, execConv, inPhase_eq hp, inPhase_eq hq]
  refine afterExec_need fun f => ?_
  simp only [State.quiet_params, hparams]
  cases durations s.params.tickMax f <;> exact afterExec_eq_of_ports rfl

theorem wslot_withCommand (p : Nat) (pair : Pair) (i : Nat) :
    afterExec (wslot p pair (s.withCommand valid word pix) fun s => .next { s with idx := some i }) =
      afterExec (wslot p pair s fun s => .next { s with idx := some i }) := by
  by_cases hout : s.slots ≤ p
  · have hout' : (s.withCommand valid word pix).slots ≤ p := hout
    rw [wslot_of_slots_le hout, wslot_of_slots_le hout']
    exact afterExec_eq_of_ports rfl
  · have hlt : p < s.slots := Nat.lt_of_not_le hout
    have hlt' : p < (s.withCommand valid word pix).slots := hlt
    rw [wslot_of_lt_slots hlt, wslot_of_lt_slots hlt']
    exact afterExec_eq_of_ports rfl

theorem fillSymbol_withCommand (hp : s.phase = .fill) (b : Bool) :
    afterExec (fillSymbol b (s.withCommand valid word pix)) = afterExec (fillSymbol b s) := by
  have hq : (s.withCommand valid word pix).phase = .fill := hp
  rw [fillSymbol, fillSymbol, inPhase_eq hp, inPhase_eq hq]
  refine afterExec_need fun i => ?_
  cases b <;> exact afterExec_need fun hi => afterExec_need fun lo => wslot_withCommand (s := s.quiet) valid word pix ..

theorem execFill_withCommand (hp : s.phase = .fill) :
    afterExec (execFill (s.withCommand valid word pix)) = afterExec (execFill s) := by
  have hq : (s.withCommand valid word pix).phase = .fill := hp
  rw [execFill, execFill, inPhase_eq hp, inPhase_eq hq]
  refine afterExec_need fun i => ?_
  by_cases hlt : i < s.quiet.slots
  · have hlt' : i < (s.withCommand valid word pix).quiet.slots := hlt
    rw [if_pos hlt, if_pos hlt']
    refine afterExec_need fun byte => ?_
    cases xbit byte (walkBit i)
    · exact fillSymbol_withCommand (s := s.quiet) valid word pix hp false
    · exact fillSymbol_withCommand (s := s.quiet) valid word pix hp true
  have hlt' : ¬ i < (s.withCommand valid word pix).quiet.slots := hlt
  rw [if_neg hlt, if_neg hlt']
  by_cases hexit : i = s.quiet.slots
  · have hexit' : i = (s.withCommand valid word pix).quiet.slots := hexit
    rw [if_pos hexit, if_pos hexit']
    exact afterExec_eq_of_ports rfl
  · have hexit' : ¬ i = (s.withCommand valid word pix).quiet.slots := hexit
    rw [if_neg hexit, if_neg hexit']

theorem execSubmit_withCommand (hp : s.phase = .submit) :
    afterExec (execSubmit (s.withCommand valid word pix)) = afterExec (execSubmit s) := by
  have hq : (s.withCommand valid word pix).phase = .submit := hp
  have ha : startAnswer (s.withCommand valid word pix).tick (s.withCommand valid word pix).ports =
    startAnswer s.tick s.ports := rfl
  rw [execSubmit, execSubmit, inPhase_eq hp, inPhase_eq hq]
  simp only [State.quiet_ports, State.quiet_tick, ha]
  cases startAnswer s.tick s.ports with
  | none => exact afterExec_eq_of_ports rfl
  | some a =>
    refine afterExec_need fun buf => ?_
    cases a <;> exact afterExec_eq_of_ports rfl

theorem execEmit_withCommand (hp : s.phase = .emit) :
    afterExec (execEmit (s.withCommand valid word pix)) = afterExec (execEmit s) := by
  have hq : (s.withCommand valid word pix).phase = .emit := hp
  have ha : doneAnswer (s.withCommand valid word pix).ports = doneAnswer s.ports := rfl
  rw [execEmit, execEmit, inPhase_eq hp, inPhase_eq hq]
  simp only [State.quiet_ports, ha]
  cases doneAnswer s.ports with
  | none => exact afterExec_eq_of_ports rfl
  | some a => cases a <;> exact afterExec_eq_of_ports rfl

/-- No row of a busy phase reads the command port. -/
theorem execPhase_withCommand (h : s.phase ≠ .idle) :
    afterExec (exec s.phase.toInstr (s.withCommand valid word pix)) = afterExec (exec s.phase.toInstr s) := by
  cases hp : s.phase
  case idle => exact absurd hp h
  case claim => exact execClaim_withCommand valid word pix hp
  case qfreq => exact execQfreq_withCommand valid word pix hp
  case conv => exact execConv_withCommand valid word pix hp
  case fill => exact execFill_withCommand valid word pix hp
  case submit => exact execSubmit_withCommand valid word pix hp
  case emit => exact execEmit_withCommand valid word pix hp

end CommandPort

/-! ### Runs of many steps -/

theorem runSteps_succ {k : Nat} (h : step s = .next t) : runSteps (k + 1) s = runSteps k t := by
  simp [runSteps, Host.Core.run, core, h]

/-- A run of `k` steps goes on from where it leads. -/
theorem runSteps_add {k : Nat} (l : Nat) (h : runSteps k s = .next t) : runSteps (k + l) s = runSteps l t := by
  induction k generalizing s with
  | zero => cases h; rw [Nat.zero_add]
  | succ k ih =>
    cases hs : step s with
    | next u =>
      rw [runSteps_succ hs] at h
      rw [Nat.succ_add, runSteps_succ hs, ih h]
    | fault r => simp [runSteps, Host.Core.run, core, hs] at h
    | refused r => simp [runSteps, Host.Core.run, core, hs] at h

/-- `k` steps lead from `s` to `t`, busy in between. -/
structure BusyRun (k : Nat) (s t : State) : Prop where
  run : runSteps k s = .next t
  busy : ∀ j, 0 < j → j < k → ∃ u, runSteps j s = .next u ∧ u.phase ≠ .idle

theorem BusyRun.refl (s : State) : BusyRun 0 s s := ⟨rfl, fun _ _ h => absurd h (Nat.not_lt_zero _)⟩

theorem BusyRun.single (h : step s = .next t) : BusyRun 1 s t := ⟨runSteps_succ h, fun j h0 h1 => by omega⟩

theorem BusyRun.trans {k l : Nat} (h : BusyRun k s t) (ht : t.phase ≠ .idle) (h' : BusyRun l t u) : BusyRun (k + l) s u where
  run := (runSteps_add l h.run).trans h'.run
  busy j h0 hj := by
    rcases Nat.lt_trichotomy j k with hlt | rfl | hgt
    · exact h.busy j h0 hlt
    · exact ⟨t, h.run, ht⟩
    · obtain ⟨i, rfl⟩ := Nat.exists_eq_add_of_le hgt.le
      rw [runSteps_add i h.run]
      exact h'.busy i (by omega) (by omega)

/-! ### The run of the walk (R148, R150, R151) -/

/-- What the FILL steps leave as it was (R36, R60, R108). -/
structure SameBuild (s t : State) : Prop where
  params : t.params = s.params
  bound : t.bound = s.bound
  operands : SameOperands s t
  trace : t.trace = s.trace

theorem SameBuild.refl (s : State) : SameBuild s s := ⟨rfl, rfl, ⟨rfl, rfl, rfl⟩, rfl⟩

theorem SameBuild.trans (h : SameBuild s t) (h' : SameBuild t u) : SameBuild s u := by
  obtain ⟨hparams, hbound, ⟨hpixl, hdur, hfreq⟩, htrace⟩ := h
  obtain ⟨hparams', hbound', ⟨hpixl', hdur', hfreq'⟩, htrace'⟩ := h'
  exact ⟨hparams'.trans hparams, hbound'.trans hbound, ⟨hpixl'.trans hpixl, hdur'.trans hdur, hfreq'.trans hfreq⟩,
    htrace'.trans htrace⟩

theorem SameBuild.slots (h : SameBuild s t) : t.slots = s.slots := by rw [State.slots, State.slots, h.params]

theorem Inv.step_walk {i : Nat} (h : Inv s) (hp : s.phase = .fill) (hidx : s.idx = some i) (hi : i < s.slots)
    (hr : s.ports.rst = false) : step s = .next (s.walkStep i).nextInputs := by
  refine step_of_exec hr hp (by decide) ?_
  obtain ⟨j, hj, -, hx⟩ | ⟨hexit, -⟩ := h.execFill_eq hp <;> rw [hidx, Option.some.injEq] at *
  · exact hj ▸ hx
  · omega

/-- As many walk steps as there are slots left, on inputs without a reset. -/
theorem Inv.run_walk {i : Nat} {pre rest : List Inputs} (h : Inv s) (hp : s.phase = .fill) (hidx : s.idx = some i)
    (hi : i + pre.length = s.slots) (hr : s.ports.rst = false) (hpre : ∀ p ∈ pre, p.rst = false)
    (hscript : s.script = pre ++ rest) :
    ∃ t, BusyRun pre.length s t ∧ Inv t ∧ t.phase = .fill ∧ t.idx = some t.slots ∧ t.ports.rst = false ∧ t.script = rest ∧
      SameBuild s t := by
  induction pre generalizing s i with
  | nil => exact ⟨s, .refl s, h, hp, hi ▸ hidx, hr, hscript, .refl s⟩
  | cons p pre ih =>
    rw [List.length_cons] at hi
    have hlt : i < s.slots := by omega
    have hscript' : (s.walkStep i).script = p :: (pre ++ rest) := hscript
    have hs := h.step_walk hp hidx hlt hr
    rw [nextInputs_eq_onInputs hscript'] at hs
    have hfirst : SameBuild s ((s.walkStep i).onInputs p (pre ++ rest)) := ⟨rfl, rfl, ⟨rfl, rfl, rfl⟩, rfl⟩
    have hphase : ((s.walkStep i).onInputs p (pre ++ rest)).phase = .fill := hp
    obtain ⟨t, hrun, hinv, hfill, hend, hrst, hrest, hsame⟩ := ih ((h.walkStep hp hidx hlt).onInputs p (pre ++ rest)) hphase rfl
      (by rw [hfirst.slots]; omega) (hpre p List.mem_cons_self) (fun q hq => hpre q (List.mem_cons_of_mem _ hq)) rfl
    refine ⟨t, ?_, hinv, hfill, hend, hrst, hrest, hfirst.trans hsame⟩
    rw [List.length_cons, Nat.add_comm]
    exact (BusyRun.single hs).trans (by rw [hphase]; decide) hrun

/-- The whole fill loop: 24N walk steps and the exit. -/
theorem Inv.run_fill {pre rest : List Inputs} (h : Inv s) (hp : s.phase = .fill) (hidx : s.idx = some 0)
    (hlen : pre.length = s.slots) (hr : s.ports.rst = false) (hpre : ∀ p ∈ pre, p.rst = false) (hscript : s.script = pre ++ rest) :
    ∃ t, BusyRun (s.slots + 1) s t.nextInputs ∧ Inv t ∧ t.phase = .submit ∧ t.script = rest ∧ SameBuild s t := by
  obtain ⟨t, hrun, hinv, hfill, hend, hrst, hrest, hsame⟩ := h.run_walk hp hidx (by rw [Nat.zero_add, hlen]) hr hpre hscript
  have hexit := step_of_exec hrst hfill (by decide) (execFill_exit hfill hend)
  exact ⟨_, hlen ▸ hrun.trans (by rw [hfill]; decide) (.single hexit), hinv.fillExit hfill hend, rfl, hrest,
    hsame.trans ⟨rfl, rfl, ⟨rfl, rfl, rfl⟩, rfl⟩⟩

/-- The buffer that SUBMIT hands over is the frame of the latched pixels (R57). -/
theorem Inv.readRange_eq_frame (h : Inv s) (hp : s.phase = .submit) :
    Memory.readRange s.sigbuf 0 s.slots = some (frame s.pixels s.dur.values) := by
  have hlen : s.pixels.length = s.params.nPixels := (pixl_eq_ofList (by simpa [hp, transmittingPhase] using h.pixl_held)).2
  rw [h.readRange_sigbuf (by simp [State.walked, hp]), frame, streamBits, List.map_map, hlen]
  rfl

/-! ### TRANSMIT as one function (R96) -/

theorem NoTransmission.nextInputs (h : NoTransmission s) : NoTransmission s.nextInputs := by
  obtain ⟨hpixl, hfreq, hdur, hidx, hsigbuf⟩ := h
  constructor <;> simpa

/-- From `s`, within `n` steps and busy in between, the command ends with the given cause and the given events added to the
trace, the binding as it was and nothing kept. -/
def EndsWithin (n : Nat) (s : State) (result : Cause × List Event) : Prop :=
  ∃ k t, k ≤ n ∧ BusyRun k s t ∧ t.phase = .idle ∧ t.done = true ∧ t.bound = s.bound ∧ t.cause = result.1 ∧
    t.err = decide (t.cause ≠ .none) ∧ t.trace = s.trace ++ result.2 ∧ NoTransmission t

theorem EndsWithin.mono {n m : Nat} {result : Cause × List Event} (h : EndsWithin n s result) (hle : n ≤ m) :
    EndsWithin m s result := by
  obtain ⟨k, t, hk, ht⟩ := h
  exact ⟨k, t, hk.trans hle, ht⟩

/-- A step that completes the command. -/
theorem endsWithin_one {e : Bool} {c : Cause} {es : List Event} (hs : step s = .next (u.ended e c).nextInputs)
    (he : e = decide (c ≠ .none)) (hbound : u.bound = s.bound) (htrace : u.trace = s.trace ++ es) : EndsWithin 1 s (c, es) := by
  refine ⟨1, _, le_rfl, .single hs, ?_⟩
  simpa [he, hbound, htrace] using NoTransmission.nextInputs (.ended e c)

/-- A run that leaves the binding, before a run that ends the command. -/
theorem EndsWithin.after {k n : Nat} {es : List Event} {result : Cause × List Event} (h : EndsWithin n u result)
    (hrun : BusyRun k s u) (hu : u.phase ≠ .idle) (hbound : u.bound = s.bound) (htrace : u.trace = s.trace ++ es) :
    EndsWithin (k + n) s (result.1, es ++ result.2) := by
  obtain ⟨l, t, hl, hrun', hidle, hdone, hbound', hcause, herr, htrace', hnone⟩ := h
  refine ⟨k + l, t, Nat.add_le_add_left hl k, hrun.trans hu hrun', hidle, hdone, hbound'.trans hbound, hcause, herr, ?_, hnone⟩
  rw [htrace', htrace, List.append_assoc]

/-- A step that leaves the binding, before a run that ends the command. -/
theorem EndsWithin.after_step {n : Nat} {i : Inputs} {is : List Inputs} {es : List Event} {result : Cause × List Event}
    (h : EndsWithin n (u.onInputs i is) result) (hs : step s = .next u.nextInputs) (hscript : u.script = i :: is)
    (hu : u.phase ≠ .idle) (hbound : u.bound = s.bound) (htrace : u.trace = s.trace ++ es) :
    EndsWithin (n + 1) s (result.1, es ++ result.2) := by
  rw [nextInputs_eq_onInputs hscript] at hs
  rw [Nat.add_comm]
  exact h.after (.single hs) hu hbound htrace

/-! ### TRANSMIT's end, phase by phase, backwards from EMIT (R96, R184)

Each phase adds its own events to what the later phases end with. -/

/-- What EMIT ends with. -/
def emitSpec : Answer → Cause × List Event
  | .ok => (.none, [.doneAns .ok])
  | .err => (.txFault, [.doneAns .err])

/-- What SUBMIT ends with, from the buffer it hands over. -/
def submitSpec (buf : List Pair) : Answer → Answer → Cause × List Event
  | .ok, td => ((emitSpec td).1, [.start buf, .startAns .ok] ++ (emitSpec td).2)
  | .err, _ => (.txStart, [.start buf, .startAns .err])

/-- What CONV ends with. -/
def convSpec (tickMax : Nat) (px : List Color) (f : Nat) (ts td : Answer) : Cause × List Event :=
  match durations tickMax f with
  | some d => submitSpec (frame px d) ts td
  | none => (.conv, [])

theorem transmitSpec_ok (tickMax : Nat) (px : List Color) (f : Nat) (ts td : Answer) :
    transmitSpec tickMax px (.ok f) ts td =
      ((convSpec tickMax px f ts td).1, [.freqQuery, .freqAns (.ok f)] ++ (convSpec tickMax px f ts td).2) := by
  simp only [transmitSpec, convSpec]
  cases durations tickMax f
  case none => rfl
  case some d => cases ts <;> cases td <;> rfl

/-- The inputs of the two steps that follow the walk: no reset, the answer to the start, the answer to the completion wait. -/
structure FrameAnswers (a z : Inputs) (ts td : Answer) : Prop where
  start_rst : a.rst = false
  start : ∀ tick, startAnswer tick a = some ts
  done_rst : z.rst = false
  done : doneAnswer z = some td

/-- The inputs after the first step of the walk: no reset in the `n` steps up to its exit, and then the two answers. -/
def FrameScript (n : Nat) (ts td : Answer) (script : List Inputs) : Prop :=
  ∃ pre a z rest, script = pre ++ a :: z :: rest ∧ pre.length = n ∧ (∀ p ∈ pre, p.rst = false) ∧ FrameAnswers a z ts td

section Phases

variable {ts td : Answer}

theorem emit_endsWithin (hp : s.phase = .emit) (hr : s.ports.rst = false) (ha : doneAnswer s.ports = some td) :
    EndsWithin 1 s (emitSpec td) := by
  cases td
  · exact endsWithin_one (step_of_exec hr hp (by decide) (execEmit_ok hp ha)) rfl rfl rfl
  · exact endsWithin_one (step_of_exec hr hp (by decide) (execEmit_err hp ha)) rfl rfl rfl

theorem Inv.submit_endsWithin {z : Inputs} {rest : List Inputs} (h : Inv s) (hp : s.phase = .submit)
    (hans : FrameAnswers s.ports z ts td) (hscript : s.script = z :: rest) :
    EndsWithin 2 s (submitSpec (frame s.pixels s.dur.values) ts td) := by
  have hbuf := h.readRange_eq_frame hp
  have ha := hans.start s.tick
  cases ts
  case err =>
    have hs := step_of_exec hans.start_rst hp (by decide) (execSubmit_err hp hbuf ha)
    exact (endsWithin_one hs rfl rfl rfl).mono (by decide)
  case ok =>
    have hs := step_of_exec hans.start_rst hp (by decide) (execSubmit_ok hp hbuf ha)
    exact (emit_endsWithin rfl hans.done_rst hans.done).after_step hs hscript (by simp) rfl rfl

theorem Inv.fill_endsWithin (h : Inv s) (hp : s.phase = .fill) (hidx : s.idx = some 0) (hr : s.ports.rst = false)
    (hframe : FrameScript s.slots ts td s.script) :
    EndsWithin (s.slots + 3) s (submitSpec (frame s.pixels s.dur.values) ts td) := by
  obtain ⟨pre, a, z, rest, hscript, hlen, hpre, hans⟩ := hframe
  obtain ⟨t, hrun, hinv, hsubmit, hrest, -, hbound, ⟨hpixl, hdur, -⟩, htrace⟩ := h.run_fill hp hidx hlen hr hpre hscript
  have hends := (hinv.onInputs a (z :: rest)).submit_endsWithin hsubmit hans rfl
  have hpixels : (t.onInputs a (z :: rest)).pixels = s.pixels := congrArg (List.map Prod.snd) hpixl
  have hdur' : (t.onInputs a (z :: rest)).dur = s.dur := hdur
  rw [hpixels, hdur', ← nextInputs_eq_onInputs hrest] at hends
  exact hends.after (es := []) hrun (by simp [hsubmit]) (by simp [hbound]) (by simp [htrace])

theorem Inv.conv_endsWithin {f : Nat} {i : Inputs} {script : List Inputs} (h : Inv s) (hp : s.phase = .conv)
    (hf : s.freq = some f) (hr : s.ports.rst = false) (hscript : s.script = i :: script) (hi : i.rst = false)
    (hframe : FrameScript s.slots ts td script) :
    EndsWithin (s.slots + 4) s (convSpec s.params.tickMax s.pixels f ts td) := by
  unfold convSpec
  cases hd : durations s.params.tickMax f with
  | none =>
    have hs := step_of_exec hr hp (by decide) (execConv_err hp hf hd)
    exact (endsWithin_one hs rfl rfl (List.append_nil _).symm).mono (by omega)
  | some d =>
    have hx := execConv_ok hp hf hd
    have hs := step_of_exec hr hp (by decide) hx
    have hends := ((h.after_execConv hx).onInputs i script).fill_endsWithin rfl rfl hi hframe
    exact hends.after_step (es := []) hs hscript (by simp) rfl (List.append_nil _).symm

theorem Inv.qfreq_endsWithin {fq : FreqAnswer} {i j : Inputs} {script : List Inputs} (h : Inv s) (hp : s.phase = .qfreq)
    (hr : s.ports.rst = false) (hfq : freqAnswer s.params.freqW s.ports = some fq) (hscript : s.script = i :: j :: script)
    (hi : i.rst = false) (hj : j.rst = false) (hframe : FrameScript s.slots ts td script) :
    EndsWithin (s.slots + 5) s (transmitSpec s.params.tickMax s.pixels fq ts td) := by
  cases fq with
  | err =>
    have hs := step_of_exec hr hp (by decide) (execQfreq_err hp hfq)
    exact (endsWithin_one hs rfl rfl rfl).mono (by omega)
  | ok f =>
    have hx := execQfreq_ok hp hfq
    have hs := step_of_exec hr hp (by decide) hx
    have hends := ((h.after_execQfreq hx).onInputs i (j :: script)).conv_endsWithin rfl rfl hi rfl hj hframe
    rw [transmitSpec_ok]
    exact hends.after_step hs hscript (by simp) rfl rfl

end Phases

end Sys2Proof.Machine

/-! ### The statements of 40_commands.md -/

namespace Sys2Proof.Machine

/-- Settles O60: the accepting step, and then what QFREQ and the phases after it end with. -/
theorem transmitRunsAsOneFunction : Obligations.TransmitRunsAsOneFunction := by
  intro s px q a z mid rest fq ts td h hp hb hr hv hcmd hscript hlen hq hmid ha hz hfq hts htd
  obtain ⟨i, j, pre, rfl⟩ : ∃ i j pre, mid = i :: j :: pre := by
    match mid, hlen with
    | i :: j :: pre, _ => exact ⟨i, j, pre, rfl⟩
  obtain ⟨hi, hj, hpre⟩ : i.rst = false ∧ j.rst = false ∧ ∀ p ∈ pre, p.rst = false := by simpa using hmid
  have hframe : FrameScript s.slots ts td (pre ++ a :: z :: rest) :=
    ⟨pre, a, z, rest, rfl, by simpa [State.slots] using hlen, hpre, ha, hts, hz, htd⟩
  have hx := execTransmit_bound hp hb px
  have hs := step_eq_command hr hp hv
  rw [hcmd, exec_transmit, hx] at hs
  have hends := ((h.after_execTransmit hx).onInputs q _).qfreq_endsWithin rfl hq hfq rfl hi hj hframe
  rw [State.pixels, show (State.onInputs q _ _).pixl = Memory.ofList 0 px.toList from rfl, Memory.values_ofList] at hends
  obtain ⟨k, t, hk, hrun, hidle, hdone, hbound, hcause, herr, htrace, hpixl, hfreq, hdur, hidx, hsigbuf⟩ :=
    hends.after_step (es := []) hs hscript (by simp) rfl (List.append_nil _).symm
  exact ⟨k, t, hk, hrun.run, hrun.busy, hidle, hdone, hbound.trans hb, hcause, herr, htrace, hpixl, hfreq, hdur, hidx, hsigbuf⟩

/-- Settles O13: a reset drops the ports it came with, and `execPhase_withCommand`. -/
theorem busyStepIgnoresCommandPort : Obligations.BusyStepIgnoresCommandPort := by
  intro s valid word pix hp
  change step (s.withCommand valid word pix) = step s
  cases hr : s.ports.rst
  · have hphase := step_eq_phase (s := s.withCommand valid word pix) hr fun hi => absurd hi hp
    rw [hphase, step_eq_phase hr fun hi => absurd hi hp]
    exact execPhase_withCommand valid word pix hp
  · have hreset : step (s.withCommand valid word pix) = .next (s.withCommand valid word pix).applyReset.nextInputs := if_pos hr
    have hreset' : step s = .next s.applyReset.nextInputs := if_pos hr
    rw [hreset, hreset']
    exact afterExec_eq_of_ports rfl

/-- Settles O33: of the cases each waiting row can answer, the one without an answer. -/
theorem waitingPhasesOnlyLeftByAnswer : Obligations.WaitingPhasesOnlyLeftByAnswer := by
  intro s t hr hs
  refine ⟨fun hp hack => ?_, fun hp hack => ?_, fun hp hack hnack => ?_, fun hp hdone => ?_⟩
  all_goals obtain ⟨u, rfl, hx⟩ := step_busy_of_phase hs hr hp (by decide)
  · obtain ⟨-, ⟨-, rfl⟩ | ⟨a, pin, ch, div, ha, -⟩⟩ := execClaim_next hx
    · rfl
    · simp [claimAnswer_eq_none.2 hack] at ha
  · obtain ⟨-, ⟨-, rfl⟩ | ⟨f, ha, -⟩ | ⟨ha, -⟩⟩ := execQfreq_next hx
    · rfl
    · simp [freqAnswer_eq_none.2 hack] at ha
    · simp [freqAnswer_eq_none.2 hack] at ha
  · obtain ⟨-, ⟨-, rfl⟩ | ⟨a, buf, ha, -⟩⟩ := execSubmit_next hx
    · rfl
    · simp [startAnswer_eq_none.2 ⟨hack, hnack⟩] at ha
  · obtain ⟨-, ⟨-, rfl⟩ | ⟨ha, -⟩ | ⟨ha, -⟩⟩ := execEmit_next hx
    · rfl
    · simp [doneAnswer_eq_none.2 hdone] at ha
    · simp [doneAnswer_eq_none.2 hdone] at ha

/-- Settles O34: before EMIT a TRANSMIT ends with ERR = 1 only, and EMIT ends it Ok on the answer Ok. -/
theorem transmitBlocksUntilDone : Obligations.TransmitBlocksUntilDone := by
  intro s t hr htx hs ht herr
  cases hp : s.phase <;> rw [hp] at htx
  case idle => cases htx
  case claim => cases htx
  all_goals
    obtain ⟨u, rfl, hx⟩ := step_busy_of_phase hs hr hp (by decide)
    simp only [State.nextInputs_phase, State.nextInputs_err] at ht herr
  case qfreq => simpa [ht, herr] using execQfreq_phase hx
  case conv => simpa [ht, herr] using execConv_phase hx
  case fill => simpa [ht] using execFill_phase hx
  case submit => simpa [ht, herr] using execSubmit_phase hx
  case emit =>
    obtain hq | ⟨-, hok⟩ := execEmit_phase hx
    · simp [ht] at hq
    · obtain ⟨hdone, hfault⟩ := doneAnswer_eq_some.1 (hok herr)
      exact ⟨rfl, hdone, by simpa using hfault⟩

/-- Settles O35: what each row of R104 makes of PHASE. -/
theorem phaseOrder : Obligations.PhaseOrder := by
  intro s t hr hs
  obtain ⟨hrst, -⟩ | ⟨-, u, rfl, hu⟩ := step_rows hs
  · simp [hr] at hrst
  rcases hu with ⟨hp, -, rfl⟩ | ⟨hp, -, hx⟩ | ⟨hp, hx⟩ | ⟨hp, hx⟩ | ⟨hp, hx⟩ | ⟨hp, hx⟩ | ⟨hp, hx⟩ | ⟨hp, hx⟩ <;>
    rw [hp, State.nextInputs_phase]
  · simp [hp]
  · simpa using execCommand_phase hp hx
  · simpa using execClaim_phase hx
  · simpa using (execQfreq_phase hx).imp_right (Or.imp_right And.left)
  · simpa using (execConv_phase hx).imp_right And.left
  · simpa using execFill_phase hx
  · simpa using (execSubmit_phase hx).imp_right (Or.imp_right And.left)
  · simpa using (execEmit_phase hx).imp_right And.left

/-- Settles O43: `execCommand_binding` and `execClaim_binding`; the rows of TRANSMIT leave the binding. -/
theorem bindingChangesOnlyByInitAndRelease : Obligations.BindingChangesOnlyByInitAndRelease := by
  intro s t hr hs
  obtain ⟨hrst, -⟩ | ⟨-, u, rfl, hu⟩ := step_phase hs
  · simp [hr] at hrst
  simp only [State.nextInputs_bound, State.nextInputs_pin, State.nextInputs_ch, State.nextInputs_div, State.nextInputs_phase]
  rcases hu with ⟨-, -, rfl⟩ | ⟨hp, hv, hx⟩ | ⟨hp, hx⟩
  · exact .inl (SameBinding.refl s)
  · have hcases := execCommand_binding hx
    rw [op_decodeCommand] at hcases
    obtain h | h | h := hcases
    · exact .inl h
    · exact .inr (.inl ⟨hp, hv, h⟩)
    · exact .inr (.inr (.inl ⟨hp, hv, h⟩))
  · by_cases htx : transmittingPhase s.phase = true
    · exact .inl (execTransmitting_binding htx hx)
    · have hclaim : s.phase = .claim := by cases hq : s.phase <;> simp_all [transmittingPhase]
      rw [hclaim] at hx
      obtain h | ⟨ha, h⟩ | ⟨ha, h⟩ := execClaim_binding hx
      · exact .inl h
      · obtain ⟨hack, herr⟩ := claimAnswer_eq_some.1 ha
        exact .inr (.inr (.inr (.inl ⟨hclaim, hack, by simpa using herr, h⟩)))
      · obtain ⟨hack, herr⟩ := claimAnswer_eq_some.1 ha
        exact .inr (.inr (.inr (.inr ⟨hclaim, hack, by simpa using herr, h⟩)))

/-- Settles O46: the idle step, and what the row of each busy phase adds to the trace. -/
theorem traceEventsOfAStep : Obligations.TraceEventsOfAStep := by
  intro s t hr hs
  refine ⟨fun hp => ?_, step_idle_trace hs hr, fun hp => ?_, fun hp => ?_, fun hp => ?_, fun hp => ?_⟩
  · simp only [List.mem_cons, List.not_mem_nil, or_false] at hp
    obtain hp | hp := hp <;> obtain ⟨u, rfl, hx⟩ := step_busy_of_phase hs hr hp (by decide) <;> rw [State.nextInputs_trace]
    · exact execConv_trace hx
    · exact execFill_trace hx
  all_goals
    obtain ⟨u, rfl, hx⟩ := step_busy_of_phase hs hr hp (by decide)
    rw [State.nextInputs_trace]
  · obtain ⟨ha, htr⟩ | ⟨a, pin, ch, div, ha, hpin, hch, hdiv, htr⟩ := execClaim_trace hx
    · rw [if_pos (claimAnswer_eq_none.1 ha)]
      exact htr
    · obtain ⟨hack, rfl⟩ := claimAnswer_eq_some.1 ha
      rw [if_neg (by simp [hack])]
      exact ⟨pin, ch, div, hpin, hch, hdiv, htr⟩
  · obtain ⟨ha, htr⟩ | ⟨a, ha, htr⟩ := execQfreq_trace hx
    · simpa [freqAnswer_eq_none.1 ha] using htr
    · obtain ⟨hack, rfl⟩ := freqAnswer_eq_some.1 ha
      simpa [hack] using htr
  · obtain ⟨ha, htr⟩ | ⟨a, buf, ha, hbuf, htr⟩ := execSubmit_trace hx
    · rw [if_pos (startAnswer_eq_none.1 ha)]
      exact htr
    · obtain ⟨hok, herr⟩ := startAnswer_line ha
      rw [if_neg fun hnone => by simp [startAnswer_eq_none.2 hnone] at ha]
      exact ⟨buf, a, hbuf, hok, herr, htr⟩
  · obtain ⟨ha, htr⟩ | ⟨a, ha, htr⟩ := execEmit_trace hx
    · simpa [doneAnswer_eq_none.1 ha] using htr
    · obtain ⟨hdone, rfl⟩ := doneAnswer_eq_some.1 ha
      simpa [hdone] using htr

/-- Settles O12: `execIdle_of_no_command`, `execIdle_of_command` and `execCommand_busy`. -/
theorem acceptanceByPhase : Obligations.AcceptanceByPhase :=
  ⟨fun _ => execIdle_of_no_command, fun _ => execIdle_of_command, fun _ _ c h => execCommand_busy c h⟩

/-- Settles O18: a completion Ok, which writes nothing else where no transmission is in progress. -/
theorem nopCompletesOk : Obligations.NopCompletesOk := by
  refine ⟨fun _ _ _ => decode_command_nop, fun s => execNop_idle, fun s h hp => ?_, fun t ht => ?_⟩
  · have hnone : NoTransmission s.quiet := h.quiet.transmit.noTransmission (by simp [hp, transmittingPhase])
    exact (execNop_idle hp).trans (congrArg _ (hnone.ended_eq hp false .none))
  · cases ht
    rfl

/-- Settles O19: the two arms of `execInit`, by BOUND. -/
theorem initAcceptRule : Obligations.InitAcceptRule := by
  refine ⟨fun _ _ _ => decode_command_init, fun pinf chf s hp => ?_⟩
  by_cases hb : s.bound = true
  · rw [if_pos hb]
    exact execInit_bound hp hb pinf chf
  · rw [if_neg hb]
    exact execInit_unbound hp (eq_false_of_ne_true hb) pinf chf

/-- Settles O20: the two arms of `execTransmit`, by BOUND; the latch is a load of the operand. -/
theorem transmitAcceptRule : Obligations.TransmitAcceptRule := by
  refine ⟨fun _ _ _ => decode_command_transmit, fun s px hp => ⟨Memory.ofList 0 px.toList, fun i => ?_, ?_⟩⟩
  · simp [Memory.read_ofList]
  · by_cases hb : s.bound = true
    · rw [if_pos hb]
      exact execTransmit_bound hp hb px
    · rw [if_neg hb]
      exact execTransmit_unbound hp (eq_false_of_ne_true hb) px

/-- Settles O22: the two arms of `execRelease`, by BOUND. -/
theorem releaseRule : Obligations.ReleaseRule :=
  ⟨fun _ _ _ => decode_command_release, fun _ => execRelease_unbound, fun _ _ _ => execRelease_bound⟩

/-- Settles O23: the three cases of the answer's two lines. -/
theorem claimAnswerRule : Obligations.ClaimAnswerRule := by
  intro s pin ch div hp hpin hch hdiv
  refine ⟨[.claim pin ch div, .claimAns (if s.ports.claimErr then .err else .ok)], ?_⟩
  cases hack : s.ports.claimAck
  · exact execClaim_waits hp (claimAnswer_eq_none.2 hack)
  · have ha := claimAnswer_eq_some.2 ⟨hack, rfl⟩
    cases herr : s.ports.claimErr <;> simp only [herr] at ha
    · exact execClaim_ok hp hpin hch hdiv ha
    · exact execClaim_err hp hpin hch hdiv ha

end Sys2Proof.Machine

/-! PROOFS. The laws of the tick arithmetic, the check of the four durations, reading a pair back by its high pulse, the byte
stream inside the bit stream, and the statements of 41_pulse_duration.md. -/

namespace Sys2Proof.Machine

variable {s : State}

/-! ### The tick arithmetic (R113, R115) -/

theorem ticks_le_ticks {ns ns' f f' : Nat} (hns : ns ≤ ns') (hf : f ≤ f') : ticks ns f ≤ ticks ns' f' :=
  Nat.div_le_div_right (Nat.mul_le_mul hns hf)

theorem two_mul_ticks_le (ns f : Nat) : 2 * ticks ns f ≤ ticks (2 * ns) f := by
  unfold ticks
  rw [Nat.mul_assoc]
  exact Nat.mul_div_le_mul_div_assoc 2 (ns * f) 1000000000

theorem ticks_350_lt_ticks_700 {f : Nat} (h : 1 ≤ ticks 350 f) : ticks 350 f < ticks 700 f := by
  have hdouble : 2 * ticks 350 f ≤ ticks 700 f := two_mul_ticks_le 350 f
  omega

theorem ticks_exact_iff {ns f : Nat} : ticks ns f * 1000000000 = ns * f ↔ 1000000000 ∣ ns * f :=
  (Nat.dvd_iff_div_mul_eq _ _).symm

/-- 350 ns asks for the multiple of 20 MHz; it serves every constant that is a multiple of 50 ns. -/
theorem protocol_ticks_exact_iff {f : Nat} :
    (∀ ns ∈ [350, 800, 700, 600], ticks ns f * 1000000000 = ns * f) ↔ 20000000 ∣ f := by
  simp only [ticks_exact_iff]
  constructor
  · intro h
    have h350 := h 350 (by simp)
    omega
  · intro hf ns hns
    have h50 : 50 ∣ ns := (by decide : ∀ ns ∈ [350, 800, 700, 600], 50 ∣ ns) ns hns
    exact Nat.mul_dvd_mul h50 hf

/-! ### The check of the four durations (R114) -/

/-- The range check is the two arms of R114: no zero, and no overflow. -/
theorem Durations.inRange_iff_no_zero_no_overflow {m : Nat} {d : Durations} :
    Durations.InRange m d ↔ ¬ (d.t0h = 0 ∨ d.t0l = 0 ∨ d.t1h = 0 ∨ d.t1l = 0) ∧
      ¬ (m < d.t0h ∨ m < d.t0l ∨ m < d.t1h ∨ m < d.t1l) := by
  unfold Durations.InRange
  omega

/-- T0H is the least of the four and T0L the greatest (R115 (a)), so the check need look at these two only. -/
theorem inRange_rawDurations {m f : Nat} :
    Durations.InRange m (rawDurations f) ↔ 1 ≤ ticks 350 f ∧ ticks 800 f ≤ m := by
  have hle {ns ns' : Nat} (h : ns ≤ ns') : ticks ns f ≤ ticks ns' f := ticks_le_ticks h le_rfl
  have h1 : ticks 350 f ≤ ticks 600 f := hle (by decide)
  have h2 : ticks 600 f ≤ ticks 700 f := hle (by decide)
  have h3 : ticks 700 f ≤ ticks 800 f := hle (by decide)
  simp only [Durations.InRange, rawDurations, Config.t0hNs, Config.t0lNs, Config.t1hNs, Config.t1lNs]
  omega

theorem durations_eq_ite (m f : Nat) :
    durations m f = if 1 ≤ ticks 350 f ∧ ticks 800 f ≤ m then some (rawDurations f) else none := by
  split
  · exact durations_eq_some.2 ⟨rfl, inRange_rawDurations.2 ‹_›⟩
  · exact durations_eq_none.2 fun hr => absurd (inRange_rawDurations.1 hr) ‹_›

/-- The two high pulses differ whenever the conversion succeeds (R115 (c)). -/
theorem t0h_lt_t1h_of_durations {m f : Nat} {d : Durations} (h : durations m f = some d) : d.t0h < d.t1h := by
  obtain ⟨rfl, hr⟩ := durations_eq_some.1 h
  exact ticks_350_lt_ticks_700 (inRange_rawDurations.1 hr).1

/-! ### Reading a pair back (R120) -/

theorem distance_self (a : Nat) : distance a a = 0 := by simp [distance]

theorem distance_pos_of_lt {a b : Nat} (h : b < a) : 0 < distance a b := by
  unfold distance
  omega

/-- A selected pair lies at distance 0 from its own high pulse; the other one is away from it. -/
theorem classify_selp {d : Durations} (h : d.t0h < d.t1h) (b : Bool) : classify d (selp d b) = b := by
  cases b
  case false => simp [classify, selp, pair0, mkPair, distance_self]
  case true => simpa [classify, selp, pair1, mkPair, distance_self] using distance_pos_of_lt h

theorem classify_of_tie {d : Durations} {p : Pair} (h : distance p.hi.dur d.t1h = distance p.hi.dur d.t0h) :
    classify d p = false := by simp [classify, h]

/-- The pairs of a frame read back as its bit stream. -/
theorem map_classify_frame {d : Durations} (h : d.t0h < d.t1h) (px : List Color) :
    (frame px d).map (classify d) = streamBits px := by
  have hinv : classify d ∘ selp d = id := funext (classify_selp h)
  rw [frame, List.map_map, hinv, List.map_id]

/-! ### The byte stream inside the bit stream (R131, R135, R136) -/

theorem byteStream_getElem? (px : List Color) (m : Nat) :
    (byteStream px)[m]? = (px[m / 3]?).map fun c => chan c (m % 3) := by
  induction px generalizing m with
  | nil => rfl
  | cons c px ih =>
    have hcons : byteStream (c :: px) = c.green :: c.red :: c.blue :: byteStream px := rfl
    rw [hcons]
    match m with
    | 0 => rfl
    | 1 => rfl
    | 2 => rfl
    | m + 3 => simpa using ih m

theorem streamBits_getElem? {px : List Color} {p : Nat} (h : p < 24 * px.length) :
    (streamBits px)[p]? = some (streamBit px p) := by simp [streamBits, h]

/-- Byte m of the byte stream stands at 8m of the bit stream, its bit 7 first. -/
theorem streamBits_of_byteStream {px : List Color} {m k : Nat} {b : Byte} (hb : (byteStream px)[m]? = some b) (hk : k < 8) :
    (streamBits px)[8 * m + (7 - k)]? = some (b.getLsbD k) := by
  rw [byteStream_getElem?, Option.map_eq_some_iff] at hb
  obtain ⟨col, hcol, rfl⟩ := hb
  have hpos : 8 * m + (7 - k) = 24 * (m / 3) + 8 * (m % 3) + (7 - k) := by omega
  have hlt : m / 3 < px.length := (List.getElem?_eq_some_iff.1 hcol).1
  rw [hpos, streamBits_getElem? (by omega), streamBit_slot hcol (Nat.mod_lt m (by decide)) hk]

/-! ### The phases forwards (R110) -/

theorem execQfreq_waits (hp : s.phase = .qfreq) (ha : freqAnswer s.params.freqW s.ports = none) :
    execQfreq s = .next s.quiet := by
  rw [execQfreq, inPhase_eq hp]
  simp [ha]

end Sys2Proof.Machine

/-! ### The statements of 41_pulse_duration.md -/

namespace Sys2Proof.Machine

/-- Settles O49: the laws of `ticks`, and the check on the least and the greatest of the four. -/
theorem ticksLaws : Obligations.TicksLaws :=
  ⟨fun _ _ _ h => ticks_le_ticks h le_rfl, fun _ _ _ h => ticks_le_ticks le_rfl h, two_mul_ticks_le 350,
    fun _ => ticks_350_lt_ticks_700, fun _ => protocol_ticks_exact_iff, durations_eq_ite⟩

/-- Settles O51: T0H < T1H whenever the conversion succeeds, so each pair is nearer to its own high pulse. -/
theorem classifyInvertsSelect : Obligations.ClassifyInvertsSelect :=
  ⟨fun _ _ _ hd => classify_selp (t0h_lt_t1h_of_durations hd), fun _ _ => classify_of_tie⟩

/-- Settles O52: the frame reads back as the bit stream, where the byte stands with its bit 7 first. -/
theorem byteRoundTrip : Obligations.ByteRoundTrip := by
  intro tickMax f d px m b hd hb k hk
  rw [← List.getElem?_map, map_classify_frame (t0h_lt_t1h_of_durations hd)]
  exact streamBits_of_byteStream hb hk

/-- Settles O24: the three cases of the answer's two lines. -/
theorem frequencyQueryRule : Obligations.FrequencyQueryRule := by
  intro s hp
  refine ⟨[.freqQuery, .freqAns (if s.ports.freqErr then .err else .ok (s.ports.freqHz % 2 ^ s.params.freqW))], ?_⟩
  cases hack : s.ports.freqAck
  · exact execQfreq_waits hp (freqAnswer_eq_none.2 hack)
  · have ha : freqAnswer s.params.freqW s.ports = some _ := freqAnswer_eq_some.2 ⟨hack, rfl⟩
    cases herr : s.ports.freqErr <;> simp only [herr] at ha
    · exact execQfreq_ok hp ha
    · exact execQfreq_err hp ha

/-- Settles O25: the two arms of the check, and the conversion where neither of them holds. -/
theorem conversionRule : Obligations.ConversionRule := by
  intro s f hp hf t0h t0l t1h t1l
  have hrange : Durations.InRange s.params.tickMax (rawDurations f) ↔ ¬ (t0h = 0 ∨ t0l = 0 ∨ t1h = 0 ∨ t1l = 0) ∧
      ¬ (s.params.tickMax < t0h ∨ s.params.tickMax < t0l ∨ s.params.tickMax < t1h ∨ s.params.tickMax < t1l) :=
    Durations.inRange_iff_no_zero_no_overflow
  split
  next hzero => exact execConv_err hp hf (durations_eq_none.2 fun hr => (hrange.1 hr).1 hzero)
  next hzero =>
    split
    next hover => exact execConv_err hp hf (durations_eq_none.2 fun hr => (hrange.1 hr).2 hover)
    next hover => exact execConv_ok hp hf (durations_eq_some.2 ⟨rfl, hrange.2 ⟨hzero, hover⟩⟩)

/-- Settles O50: the conversion evaluated at each frequency. -/
theorem conversionCorners : Obligations.ConversionCorners := by
  unfold Obligations.ConversionCorners
  decide

end Sys2Proof.Machine

/-! PROOFS. The bit stream pixel by pixel (R135), and the statement of 42_bit_extractor.md. -/

namespace Sys2Proof.Machine

/-- The 8 bits of a byte in stream order, bit 7 first (R134). -/
def msbFirst (b : Byte) : List Bool := (List.range 8).map fun j => b.getLsbD (7 - j)

@[simp] theorem streamBits_length (px : List Color) : (streamBits px).length = 24 * px.length := by
  simp [streamBits]

/-- The bits of the later pixels stand 24 places on, whatever the first pixel is. -/
theorem streamBit_cons_add (c : Color) (px : List Color) (p : Nat) :
    streamBit (c :: px) (24 + p) = streamBit px p := by
  have hpix : (24 + p) / 24 = p / 24 + 1 := by omega
  have hchan : (24 + p) % 24 / 8 = p % 24 / 8 := by omega
  have hbit : (24 + p) % 8 = p % 8 := by omega
  rw [streamBit, hpix, hchan, hbit, List.getD_cons_succ, streamBit]

/-- The first 24 bits are the first pixel's green, red and blue byte. -/
theorem map_streamBit_range_24 (c : Color) (px : List Color) :
    (List.range 24).map (streamBit (c :: px)) = msbFirst c.green ++ msbFirst c.red ++ msbFirst c.blue := rfl

theorem streamBits_cons (c : Color) (px : List Color) :
    streamBits (c :: px) = msbFirst c.green ++ msbFirst c.red ++ msbFirst c.blue ++ streamBits px := by
  have hlater : streamBit (c :: px) ∘ (24 + ·) = streamBit px := funext (streamBit_cons_add c px)
  have hlen : 24 * (c :: px).length = 24 + 24 * px.length := by rw [List.length_cons]; omega
  rw [streamBits, hlen, List.range_add, List.map_append, List.map_map, hlater, map_streamBit_range_24, streamBits]

theorem byteStream_cons (c : Color) (px : List Color) :
    byteStream (c :: px) = c.green :: c.red :: c.blue :: byteStream px := rfl

theorem streamBits_eq_flatMap_msbFirst (px : List Color) : streamBits px = (byteStream px).flatMap msbFirst := by
  induction px with
  | nil => rfl
  | cons c px ih => simp only [streamBits_cons, byteStream_cons, List.flatMap_cons, List.append_assoc, ih]

end Sys2Proof.Machine

/-! ### The statement of 42_bit_extractor.md -/

namespace Sys2Proof.Machine

/-- Settles O53: the two streams agree pixel by pixel; R137's example is evaluated. -/
theorem bitStreamOrder : Obligations.BitStreamOrder :=
  ⟨streamBits_eq_flatMap_msbFirst, streamBits_length, by decide⟩

end Sys2Proof.Machine

/-! PROOFS. The walk is its own inverse, the frame is a well-formed buffer, the pulses of a buffer and their length, the rows of
SUBMIT and EMIT that wait, and the statements of 43_buffer_builder.md. -/

namespace Sys2Proof.Machine

variable {s : State}

/-! ### The walk (R147, R149) -/

theorem wpos_eq_iff {i p : Nat} : wpos i = p ↔ i = wpos p := by
  constructor
  · rintro rfl; exact (wpos_wpos i).symm
  · rintro rfl; exact wpos_wpos p

/-! ### The FILL row on named values (R131, R148) -/

theorem chan_eq_ite (c : Color) (k : Nat) : chan c k = if k = 0 then c.green else if k = 1 then c.red else c.blue := by
  match k with
  | 0 => rfl
  | 1 => rfl
  | _ + 2 => rfl

/-- BYTESEL at walk step `i` where the latch holds that step's pixel. -/
theorem byteSel_walkByte_of_read {m : Memory Color} {i : Nat} {c : Color} (h : Memory.read m (i / 24) = some c) :
    byteSel m (walkByte i) = some (chan c (i % 24 / 8)) := by
  have hpix : walkByte i / 3 = i / 24 := by unfold walkByte; omega
  have hchan : walkByte i % 3 = i % 24 / 8 := by unfold walkByte; omega
  rw [byteSel, hpix, hchan, h, Option.map_some]

/-- A FILL step below 24N writes the pair of its data bit into the walk's slot. -/
theorem execFill_eq_selp {i : Nat} {c : Color} {d : Durations} (hp : s.phase = .fill) (hidx : s.idx = some i) (hi : i < s.slots)
    (hc : Memory.read s.pixl (i / 24) = some c) (hd : s.dur = DurFile.ofDurations d) :
    execFill s = .next { s.quiet with
      sigbuf := Memory.write s.sigbuf (wpos i) (selp d (xbit (chan c (i % 24 / 8)) (walkBit i))), idx := some (i + 1) } := by
  rw [execFill_eq_fillSymbol hp hidx hi (byteSel_walkByte_of_read hc), fillSymbol_quiet, fillSymbol_eq_selp hp hidx hd hi]

/-! ### The buffer that is offered (R53, R114, R156) -/

theorem pairWellFormed_selp {m : Nat} {d : Durations} (h : Durations.InRange m d) (b : Bool) :
    pairWellFormed m (selp d b) = true := by
  obtain ⟨⟨h0h, h0h'⟩, ⟨h0l, h0l'⟩, ⟨h1h, h1h'⟩, ⟨h1l, h1l'⟩⟩ := h
  cases b
  case false => simpa [pairWellFormed, selp, pair0, mkPair] using ⟨h0h, h0h', h0l, h0l'⟩
  case true => simpa [pairWellFormed, selp, pair1, mkPair] using ⟨h1h, h1h', h1l, h1l'⟩

theorem bufferWellFormed_iff {n m : Nat} {buf : List Pair} :
    bufferWellFormed n m buf = true ↔ buf.length = 24 * n ∧ ∀ p ∈ buf, pairWellFormed m p = true := by
  simp [bufferWellFormed]

theorem bufferWellFormed_frame {m : Nat} {d : Durations} (h : Durations.InRange m d) (px : List Color) :
    bufferWellFormed px.length m (frame px d) = true := by
  refine bufferWellFormed_iff.2 ⟨by rw [frame, List.length_map, streamBits_length], fun p hp => ?_⟩
  obtain ⟨b, -, rfl⟩ := List.mem_map.1 hp
  exact pairWellFormed_selp h b

/-- What SUBMIT reads out of SIGBUF is a well-formed buffer. -/
theorem Inv.bufferWellFormed_sigbuf (h : Inv s) (hp : s.phase = .submit) {buf : List Pair}
    (hbuf : Memory.readRange s.sigbuf 0 s.slots = some buf) : bufferWellFormed s.params.nPixels s.params.tickMax buf = true := by
  obtain rfl : frame s.pixels s.dur.values = buf := Option.some.inj ((h.readRange_eq_frame hp).symm.trans hbuf)
  have hlen : s.pixels.length = s.params.nPixels := (pixl_eq_ofList (by simpa [hp, transmittingPhase] using h.pixl_held)).2
  obtain ⟨f, d, -, hd, hfile⟩ := h.transmit.exists_durations (by rw [hp]; rfl)
  rw [← hlen, hfile, values_ofDurations]
  exact bufferWellFormed_frame (durations_eq_some.1 hd).2 s.pixels

/-! ### The waveform (R160, R161) -/

theorem wave_cons (p : Pair) (buf : List Pair) : wave (p :: buf) = p.hi :: p.lo :: wave buf := rfl

theorem wave_length (buf : List Pair) : (wave buf).length = 2 * buf.length := by
  induction buf with
  | nil => rfl
  | cons p buf ih => rw [wave_cons, List.length_cons, List.length_cons, List.length_cons, ih]; omega

theorem wave_getElem?_even (buf : List Pair) (p : Nat) : (wave buf)[2 * p]? = (buf[p]?).map Pair.hi := by
  induction buf generalizing p with
  | nil => rfl
  | cons x buf ih =>
    cases p with
    | zero => rfl
    | succ p => exact ih p

theorem wave_getElem?_odd (buf : List Pair) (p : Nat) : (wave buf)[2 * p + 1]? = (buf[p]?).map Pair.lo := by
  induction buf generalizing p with
  | nil => rfl
  | cons x buf ih =>
    cases p with
    | zero => rfl
    | succ p => exact ih p

theorem pairWellFormed_levels {m : Nat} {p : Pair} (h : pairWellFormed m p = true) : p.hi.level = .high ∧ p.lo.level = .low := by
  simp only [pairWellFormed, Bool.and_eq_true, beq_iff_eq] at h
  exact h.1

/-- The levels alternate, pulse 2p being the high one and pulse 2p + 1 the low one of pair p. -/
theorem wave_level {m q : Nat} {buf : List Pair} (h : ∀ p ∈ buf, pairWellFormed m p = true) (hq : q < 2 * buf.length) :
    ((wave buf)[q]?).map Pulse.level = some (if q % 2 = 0 then .high else .low) := by
  obtain ⟨p, hpos⟩ := Nat.even_or_odd' q
  have hlt : p < buf.length := by omega
  obtain ⟨hhigh, hlow⟩ := pairWellFormed_levels (h buf[p] (List.getElem_mem hlt))
  rcases hpos with rfl | rfl
  · simp [wave_getElem?_even, hlt, hhigh]
  · simp [wave_getElem?_odd, hlt, hlow, Nat.add_mod]

theorem waveTicks_wave_cons (p : Pair) (buf : List Pair) :
    waveTicks (wave (p :: buf)) = p.hi.dur + p.lo.dur + waveTicks (wave buf) := by
  simp [wave_cons, waveTicks, Nat.add_assoc]

theorem selp_ticks (d : Durations) (b : Bool) :
    (selp d b).hi.dur + (selp d b).lo.dur = if b then d.t1h + d.t1l else d.t0h + d.t0l := by cases b <;> rfl

/-- Each 0 bit adds T0H + T0L ticks and each 1 bit T1H + T1L. -/
theorem waveTicks_map_selp (d : Durations) (bits : List Bool) :
    waveTicks (wave (bits.map (selp d))) = bits.count false * (d.t0h + d.t0l) + bits.count true * (d.t1h + d.t1l) := by
  induction bits with
  | nil => simp [wave, waveTicks]
  | cons b bits ih =>
    rw [List.map_cons, waveTicks_wave_cons, selp_ticks, ih]
    cases b
    case false => rw [if_neg Bool.false_ne_true, List.count_cons_self, List.count_cons_of_ne (by decide)]; ring
    case true => rw [if_pos rfl, List.count_cons_self, List.count_cons_of_ne (by decide)]; ring

/-! ### SUBMIT and EMIT without an answer, and the start lines (R85, R155, R157) -/

theorem execSubmit_waits (hp : s.phase = .submit) (ha : startAnswer s.tick s.ports = none) : execSubmit s = .next s.quiet := by
  rw [execSubmit, inPhase_eq hp]
  simp [ha]

theorem execEmit_waits (hp : s.phase = .emit) (ha : doneAnswer s.ports = none) : execEmit s = .next s.quiet := by
  rw [execEmit, inPhase_eq hp]
  simp [ha]

theorem startAnswer_ack {n : Nat} {p : Inputs} (hack : p.txAck = true) (hnack : p.txNack = false) :
    startAnswer n p = some .ok := by simp [startAnswer, hack, hnack]

theorem startAnswer_nack {n : Nat} {p : Inputs} (hack : p.txAck = false) (hnack : p.txNack = true) :
    startAnswer n p = some .err := by simp [startAnswer, hack, hnack]

end Sys2Proof.Machine

/-! ### The statements of 43_buffer_builder.md -/

namespace Sys2Proof.Machine

/-- Settles O39: a Start that a step adds was read whole out of SIGBUF in SUBMIT (`step_offersSigbuf`), where Inv makes it a frame. -/
theorem offeredBuffersWellFormed : Obligations.OfferedBuffersWellFormed := by
  intro s t h htrace hs buf hbuf
  rw [parametersNeverChange s t hs]
  obtain ⟨es, ht, hoffer⟩ := step_offersSigbuf hs
  rw [ht, List.mem_append] at hbuf
  rcases hbuf with hold | hnew
  · exact htrace buf hold
  · obtain ⟨hp, hrange⟩ := hoffer buf hnew
    exact h.bufferWellFormed_sigbuf hp hrange

/-- Settles O26: the row forwards, and a read after the one write. -/
theorem fillStepWritesOneSlot : Obligations.FillStepWritesOneSlot := by
  intro s i c d hp hidx hi hc hd
  refine ⟨_, execFill_eq_selp hp hidx hi hc hd, fun p => ?_⟩
  rw [Memory.read_write, chan_eq_ite]
  rfl

/-- Settles O56: the pulses of a buffer by position, and the levels of well-formed pairs. -/
theorem waveformAlternates : Obligations.WaveformAlternates := by
  intro n tickMax buf h
  obtain ⟨hlen, hpairs⟩ := bufferWellFormed_iff.1 h
  exact ⟨by rw [wave_length, hlen]; omega, fun p _ => ⟨wave_getElem?_even buf p, wave_getElem?_odd buf p⟩,
    fun q hq => wave_level hpairs (by omega)⟩

/-- Settles O57: the ticks added up bit by bit, and every bit of the stream is 0 or 1. -/
theorem frameLengthInTicks : Obligations.FrameLengthInTicks :=
  fun px d => ⟨waveTicks_map_selp d (streamBits px), by rw [List.count_false_add_count_true, streamBits_length]⟩

/-- Settles O59: `Inv.run_fill` on the first 24N inputs of the script; in SUBMIT the buffer is the frame. -/
theorem fillBuildsTheFrame : Obligations.FillBuildsTheFrame := by
  intro s h hp hidx hr hlen hrst
  have hscript : s.script = s.script.take s.slots ++ s.script.drop s.slots := (List.take_append_drop _ _).symm
  obtain ⟨t, hrun, hinv, hsubmit, -, hsame⟩ :=
    h.run_fill hp hidx (List.length_take_of_le hlen) hr hrst hscript
  have hslots := hsame.slots
  obtain ⟨-, hbound, ⟨hpixl, hdur, hfreq⟩, htrace⟩ := hsame
  have hframe := hinv.readRange_eq_frame hsubmit
  rw [hslots, State.pixels, hpixl, hdur] at hframe
  have hnone : t.idx = none := by simpa [hsubmit] using hinv.idx_held
  refine ⟨t.nextInputs, hrun.run, ?_⟩
  simp only [State.nextInputs_phase, State.nextInputs_idx, State.nextInputs_sigbuf, State.nextInputs_pixl, State.nextInputs_dur,
    State.nextInputs_freq, State.nextInputs_trace, State.nextInputs_bound]
  exact ⟨hsubmit, hnone, hframe, hpixl, hdur, hfreq, htrace, hbound⟩

/-- Settles O27: `execFill_exit`. -/
theorem fillExitRule : Obligations.FillExitRule := fun _ hp hidx => execFill_exit hp hidx

/-- Settles O29: the two arms of WSLOT, and a read after the one write. -/
theorem slotWriteRangeCheck : Obligations.SlotWriteRangeCheck :=
  ⟨fun _ _ s _ h => (wslot_of_slots_le h).trans (raise_eq_ended .index s),
    fun p pair s _ h => ⟨_, wslot_of_lt_slots h, Memory.read_write s.sigbuf p pair⟩⟩

/-- Settles O30: the three answers of the start lines; a buffer read slot by slot is the range that SUBMIT reads. -/
theorem submitRule : Obligations.SubmitRule := by
  intro s buf hp hlen hread
  have hbuf : Memory.readRange s.sigbuf 0 s.slots = some buf :=
    Memory.readRange_eq_some.2 ⟨hlen, by simpa [State.slots] using hread⟩
  exact ⟨fun hack hnack => execSubmit_waits hp (startAnswer_eq_none.2 ⟨hack, hnack⟩),
    fun hack hnack => execSubmit_ok hp hbuf (startAnswer_ack hack hnack),
    fun hack hnack => execSubmit_err hp hbuf (startAnswer_nack hack hnack)⟩

/-- Settles O32: the three cases of the answer's two lines. -/
theorem emitRule : Obligations.EmitRule := by
  intro s hp
  cases hdone : s.ports.txDone
  · exact execEmit_waits hp (doneAnswer_eq_none.2 hdone)
  · cases hfault : s.ports.txFault
    · exact execEmit_ok hp (doneAnswer_eq_some.2 ⟨hdone, by simp [hfault]⟩)
    · exact execEmit_err hp (doneAnswer_eq_some.2 ⟨hdone, by simp [hfault]⟩)

/-- Settles O54: the walk is its own inverse, so a slot is reached from its own image only. -/
theorem walkIsBijective : Obligations.WalkIsBijective :=
  ⟨fun _ _ => wpos_lt, wpos_wpos,
    fun _ p hp => ⟨wpos p, wpos_lt hp, wpos_wpos p, fun _ _ h => wpos_eq_iff.1 h⟩, fun _ => rfl⟩

end Sys2Proof.Machine

/-! PROOFS. The causes each row of R104 can write, and the statements of 60_exceptions.md. -/

namespace Sys2Proof.Machine

variable {s t : State}

/-! ### The causes of the rows (R171, R184) -/

/-- A step's row writes CAUSE with one of `cs`, or it ends no command and leaves CAUSE. -/
def CauseWithin (cs : List Cause) (s t : State) : Prop := t.cause ∈ cs ∨ (t.cause = s.cause ∧ t.rsp = none)

theorem CauseWithin.mono {cs ds : List Cause} (h : CauseWithin cs s t) (hsub : cs ⊆ ds) : CauseWithin ds s t :=
  h.imp_left fun hmem => hsub hmem

theorem causeWithin_ended {cs : List Cause} {c : Cause} (e : Bool) (u : State) (hc : c ∈ cs) : CauseWithin cs s (u.ended e c) :=
  .inl hc

/-- The accepting step of a command clears CAUSE, or ends the command with CLAIM or NOT_BOUND (R90, R91, R95, R100). -/
theorem execCommand_causeWithin {n : Nat} {c : Command n} (hp : s.phase = .idle) (hx : exec c.toInstr s = .next t) :
    CauseWithin [.none, .claim, .notBound] s t := by
  cases c
  case nop =>
    obtain ⟨-, rfl⟩ | ⟨hn, -⟩ := execNop_next hx
    · exact causeWithin_ended _ _ (by simp)
    · exact absurd hp hn
  case init =>
    obtain ⟨-, -, rfl⟩ | ⟨-, -, rfl⟩ | ⟨hn, -⟩ := execInit_next hx
    · exact causeWithin_ended _ _ (by simp)
    · exact .inl (by simp)
    · exact absurd hp hn
  case transmit =>
    obtain ⟨-, -, -, rfl⟩ | ⟨-, -, -, rfl⟩ | ⟨hn, -⟩ := execTransmit_next hx
    · exact causeWithin_ended _ _ (by simp)
    · exact .inl (by simp)
    · exact absurd hp hn
  case release =>
    obtain ⟨-, -, rfl⟩ | ⟨-, -, pin, ch, -, -, rfl⟩ | ⟨hn, -⟩ := execRelease_next hx
    · exact causeWithin_ended _ _ (by simp)
    · exact causeWithin_ended _ _ (by simp)
    · exact absurd hp hn

theorem execClaim_causeWithin (hx : execClaim s = .next t) : CauseWithin [.none, .claim] s t := by
  obtain ⟨-, ⟨-, rfl⟩ | ⟨a, pin, ch, div, -, -, -, -, ⟨-, rfl⟩ | ⟨-, rfl⟩⟩⟩ := execClaim_next hx
  · exact .inr ⟨rfl, rfl⟩
  · exact causeWithin_ended _ _ (by simp)
  · exact causeWithin_ended _ _ (by simp)

theorem execQfreq_causeWithin (hx : execQfreq s = .next t) : CauseWithin [.freq] s t := by
  obtain ⟨-, ⟨-, rfl⟩ | ⟨f, -, rfl⟩ | ⟨-, rfl⟩⟩ := execQfreq_next hx
  · exact .inr ⟨rfl, rfl⟩
  · exact .inr ⟨rfl, rfl⟩
  · exact causeWithin_ended _ _ (by simp)

theorem execConv_causeWithin (hx : execConv s = .next t) : CauseWithin [.conv] s t := by
  obtain ⟨-, f, -, ⟨d, -, rfl⟩ | ⟨-, rfl⟩⟩ := execConv_next hx
  · exact .inr ⟨rfl, rfl⟩
  · exact causeWithin_ended _ _ (by simp)

/-- No cause at all: the walk stays in range, so WSLOT's INDEX is out of reach of FILL (R149 (e), R175). -/
theorem execFill_causeWithin (hx : execFill s = .next t) : CauseWithin [] s t := by
  obtain ⟨m, i, rfl⟩ | rfl := execFill_cases hx
  · exact .inr ⟨rfl, rfl⟩
  · exact .inr ⟨rfl, rfl⟩

theorem execSubmit_causeWithin (hx : execSubmit s = .next t) : CauseWithin [.txStart] s t := by
  obtain ⟨-, ⟨-, rfl⟩ | ⟨a, buf, -, -, ⟨-, rfl⟩ | ⟨-, rfl⟩⟩⟩ := execSubmit_next hx
  · exact .inr ⟨rfl, rfl⟩
  · exact .inr ⟨rfl, rfl⟩
  · exact causeWithin_ended _ _ (by simp)

theorem execEmit_causeWithin (hx : execEmit s = .next t) : CauseWithin [.none, .txFault] s t := by
  obtain ⟨-, ⟨-, rfl⟩ | ⟨-, rfl⟩ | ⟨-, rfl⟩⟩ := execEmit_next hx
  · exact .inr ⟨rfl, rfl⟩
  · exact causeWithin_ended _ _ (by simp)
  · exact causeWithin_ended _ _ (by simp)

/-- The causes a step can write: all of R171 but INDEX. -/
theorem step_causeWithin (hs : step s = .next t) :
    CauseWithin [.none, .claim, .freq, .conv, .txStart, .txFault, .notBound] s t := by
  obtain ⟨-, rfl⟩ | ⟨-, u, rfl, hu⟩ := step_rows hs
  · exact .inl (by simp)
  rw [CauseWithin, State.nextInputs_cause, State.nextInputs_rsp]
  rcases hu with ⟨-, -, rfl⟩ | ⟨hp, -, hx⟩ | ⟨-, hx⟩ | ⟨-, hx⟩ | ⟨-, hx⟩ | ⟨-, hx⟩ | ⟨-, hx⟩ | ⟨-, hx⟩
  · exact .inr ⟨rfl, rfl⟩
  · exact (execCommand_causeWithin hp hx).mono (by simp)
  · exact (execClaim_causeWithin hx).mono (by simp)
  · exact (execQfreq_causeWithin hx).mono (by simp)
  · exact (execConv_causeWithin hx).mono (by simp)
  · exact (execFill_causeWithin hx).mono (by simp)
  · exact (execSubmit_causeWithin hx).mono (by simp)
  · exact (execEmit_causeWithin hx).mono (by simp)

end Sys2Proof.Machine

/-! ### The statements of 60_exceptions.md -/

namespace Sys2Proof.Machine

/-- Settles O41: INDEX is none of the causes a step can write (`step_causeWithin`), so a step after which CAUSE is INDEX left it. -/
theorem indexIsNeverRaised : Obligations.IndexIsNeverRaised := by
  intro s t hs hindex
  obtain hwritten | ⟨hkept, hrsp⟩ := step_causeWithin hs
  · simp [hindex] at hwritten
  · exact ⟨hkept.symm.trans hindex, hrsp⟩

/-- Settles O17: both completions are the list of writes that `State.ended` makes. -/
theorem completionWrites : Obligations.CompletionWrites :=
  fun s => ⟨complete_eq_ended s, fun c => raise_eq_ended c s⟩

end Sys2Proof.Machine

/-! PROOFS. The step with rst = 1, the outputs that the next inputs leave, and the statement of 70_reset_and_hazards.md. -/

namespace Sys2Proof.Machine

/-! ### The reset row (R104 row 26, R200) -/

theorem step_of_rst {s : State} (hr : s.ports.rst = true) : step s = .next s.applyReset.nextInputs := if_pos hr

/-! ### STATUS and the request lines read no input port (R31, R70, R85) -/

@[simp] theorem State.nextInputs_status (s : State) : s.nextInputs.status = s.status := by
  simp [State.status, State.busy]

@[simp] theorem State.nextInputs_rspValid (s : State) : s.nextInputs.rspValid = s.rspValid := by
  simp [State.rspValid]

@[simp] theorem State.nextInputs_claimReq (s : State) : s.nextInputs.claimReq = s.claimReq := by
  simp [State.claimReq]

@[simp] theorem State.nextInputs_freqReq (s : State) : s.nextInputs.freqReq = s.freqReq := by
  simp [State.freqReq]

@[simp] theorem State.nextInputs_txStart (s : State) : s.nextInputs.txStart = s.txStart := by
  simp [State.txStart]

/-! ### The outputs of a block just reset (R40, R200) -/

@[simp] theorem State.applyReset_status (s : State) : s.applyReset.status = 0 := by
  simp [State.status, State.busy, Cause.code]
@[simp] theorem State.applyReset_rspValid (s : State) : s.applyReset.rspValid = false := rfl
@[simp] theorem State.applyReset_claimReq (s : State) : s.applyReset.claimReq = false := rfl
@[simp] theorem State.applyReset_freqReq (s : State) : s.applyReset.freqReq = false := rfl
@[simp] theorem State.applyReset_txStart (s : State) : s.applyReset.txStart = false := rfl

/-! ### The statement of 70_reset_and_hazards.md -/

/-- Settles O14: in every phase the step is `State.applyReset`, and the next inputs move no register and no output. -/
theorem resetOverridesEveryPhase : Obligations.ResetOverridesEveryPhase := by
  intro s hr
  refine ⟨_, step_of_rst hr, ?_⟩
  simp [DurFile.empty]

end Sys2Proof.Machine

/-! PROOFS. The request that is with the peripheral, phase by phase, and the statements that fix the model's own choices (log 4, 5, 6). -/

namespace Sys2Proof.Machine

variable {s : State}

/-! ### The request in flight (R37; log 5) -/

theorem inFlight_of_qfreq (hp : s.phase = .qfreq) : s.inFlight = [.freqQuery] := by simp [State.inFlight, hp]

theorem inFlight_of_claim {pin : PinNo} {ch : ChNo} {div : BitVec 8} (hp : s.phase = .claim) (hpin : s.pin = some pin)
    (hch : s.ch = some ch) (hdiv : s.div = some div) : s.inFlight = [.claim pin ch div] := by
  simp [State.inFlight, hp, hpin, hch, hdiv]

theorem inFlight_of_submit {buf : List Pair} (hp : s.phase = .submit) (hbuf : Memory.readRange s.sigbuf 0 s.slots = some buf) :
    s.inFlight = [.start buf] := by
  simp [State.inFlight, hp, hbuf]

theorem inFlight_of_no_request (hp : s.phase ∈ [.idle, .conv, .fill, .emit]) : s.inFlight = [] := by
  simp only [List.mem_cons, List.not_mem_nil, or_false] at hp
  obtain hp | hp | hp | hp := hp <;> simp [State.inFlight, hp]

/-! ### Both start lines raised (R85; log 4) -/

theorem startAnswer_both {n : Nat} {p : Inputs} (hack : p.txAck = true) (hnack : p.txNack = true) :
    startAnswer n p = some (Config.startBoth n) := by simp [startAnswer, hack, hnack]

/-! ### The statements of the model's own choices -/

/-- Settles O16: the step is `State.applyReset`, whose trace gains the request in flight, and each phase has its own. -/
theorem resetKeepsTheTrace : Obligations.ResetKeepsTheTrace := by
  intro s hr
  refine ⟨_, step_of_rst hr, ?_⟩
  rw [State.nextInputs_trace, State.applyReset_trace]
  refine ⟨fun hp => ?_, fun hp pin ch div hpin hch hdiv => ?_, fun hp buf hbuf => ?_, fun hp => ?_⟩
  · rw [inFlight_of_qfreq hp]
  · rw [inFlight_of_claim hp hpin hch hdiv]
  · rw [inFlight_of_submit hp hbuf]
  · rw [inFlight_of_no_request hp, List.append_nil]

/-- Settles O31: the two values of the free answer `Config.startBoth`. -/
theorem bothStartLinesIsOneAnswer : Obligations.BothStartLinesIsOneAnswer := by
  intro s buf hp hbuf hack hnack
  have ha : startAnswer s.tick s.ports = some (Config.startBoth s.tick) := startAnswer_both hack hnack
  cases hfree : Config.startBoth s.tick <;> rw [hfree] at ha
  case ok => exact .inl (execSubmit_ok hp hbuf ha)
  case err => exact .inr (execSubmit_err hp hbuf ha)

end Sys2Proof.Machine
